-- ==== Sys2Proof/Word.lean ====
section
/-! DEFINITION. The words of the block: bytes, 16-bit and 32-bit data, 24-bit addresses, and byte stores as plain lists. -/

namespace Sys2Proof

/-- One byte, the addressable unit of every store (R40). -/
abbrev Byte := BitVec 8

/-- A 16-bit word: a WORD access, a control-register value, a VDP port word. -/
abbrev Word := BitVec 16

/-- A 32-bit LONG. -/
abbrev Long := BitVec 32

/-- A masked main-bus address, `u24` (R41). -/
abbrev Addr := BitVec 24

/-- A byte store as data: (index, byte) pairs in the canonical form of `Memory.wf` (Machine/Ops.lean). A byte that is not
listed was never written; what it reads as is said where each store is read. -/
abbrev Memory := List Host.Cell

end Sys2Proof
end

