-- ==== Sys2Proof/Syntax.lean ====
section
/-! DEFINITION. The operations of the block: one constructor of `Instr` per row of spec/opcode_table.json, and the types of
their operands. The rule cited at each constructor is the row's rule. -/

namespace Sys2Proof

/-- The sizes a region handler sees: it never sees a LONG (R43). -/
inductive Width where
  | byte
  | word
  deriving DecidableEq, Repr, Inhabited

/-- The access sizes of the bus (R71): n = 1, 2, 4. -/
inductive Size where
  | byte
  | word
  | long
  deriving DecidableEq, Repr, Inhabited

/-- A datum as a handler sees it: the size with the value (R13, R71). -/
inductive Datum where
  | byte (v : Byte)
  | word (v : Word)
  deriving DecidableEq, Repr, Inhabited

/-- A datum of a bus transaction, LONG included (R71). -/
inductive BusDatum where
  | byte (v : Byte)
  | word (v : Word)
  | long (v : Long)
  deriving DecidableEq, Repr, Inhabited

/-- The regions of R73. -/
inductive Region where
  | cart
  | ram
  | reserved
  | coCpu
  | io
  | reg
  | vdp
  | unmapped
  deriving DecidableEq, Repr

/-- The registers of the REG window (R74). -/
inductive RegSel where
  | memmode
  | busreq
  | coreset
  | banksel
  | tmss
  | other
  deriving DecidableEq, Repr

/-- What a VDP port offset selects (R75). -/
inductive VdpOffset where
  | data
  | control
  | hv
  | unexpected
  deriving DecidableEq, Repr

/-- The two ports that take a forwarded VDP write (R115). -/
inductive Port where
  | data
  | control
  deriving DecidableEq, Repr

/-- The CPUs (R12, R297). -/
inductive Cpu where
  | main
  | co
  deriving DecidableEq, Repr

/-- Which interrupt an acknowledge takes (R260). -/
inductive Irq where
  | v
  | h
  deriving DecidableEq, Repr

/-- The VDP memories (R20). -/
inductive VdpTarget where
  | vram
  | cram
  | vsram
  deriving DecidableEq, Repr, Inhabited

/-- The three transfer modes DMA.START takes (R221). -/
inductive DmaKind where
  | fill
  | copy
  | m68kToVram
  deriving DecidableEq, Repr, Inhabited

/-- Horizontal resolutions (R5, R229). -/
inductive HRes where
  | h32
  | h40
  deriving DecidableEq, Repr

/-- Display periods (R5, R229). -/
inductive Period where
  | active
  | blank
  deriving DecidableEq, Repr

/-- The operands of DMA.START (R221). -/
structure DmaOperands where
  mode : DmaKind
  length : Nat
  source : Addr
  destination : Word
  target : VdpTarget
  autoInc : Byte
  fillValue : Byte
  deriving DecidableEq, Repr, Inhabited

/-- A postponed VDP port write (R13): the datum carries its size. -/
structure DeferredWrite where
  addr : Addr
  data : Datum
  deriving DecidableEq, Repr

/-- The two calls of an overlay device (R171, R172). -/
inductive DevAccess where
  | read (n : Width)
  | write (d : Datum)
  deriving DecidableEq, Repr

/-- What the VDP collaborator answers to one forwarded port word (R115, R220, R226): the target and address its own registers
give a data-port word, and the transfer its register programming starts, if any. -/
structure PortAnswer where
  target : VdpTarget
  addr : Word
  start : Option DmaOperands
  deriving DecidableEq, Repr, Inhabited

/-- What the main CPU may do inside one instruction (R271, R296). -/
inductive MainOp where
  | read (n : Size) (addr : BitVec 32)
  | write (addr : BitVec 32) (v : BusDatum)
  | iack (which : Irq)
  deriving DecidableEq, Repr

/-- What the co-CPU may do inside one instruction: acknowledge (R260), and change its own memory (R17, U2). -/
inductive CoOp where
  | iack (which : Irq)
  | store (i : Addr) (b : Byte)
  deriving DecidableEq, Repr

/-- What the VDP collaborator may do inside its unit of work (R271, R296). -/
inductive VdpOp where
  | start (o : DmaOperands)
  | slot
  | drain
  | setLines (v h : Bool)
  | freeze (b : Bool)
  | status
  | slots (res : HRes) (period : Period)
  deriving DecidableEq, Repr

/-- One instruction of the main CPU: its bus operations in order, and the cycles `MainCpu.step` reports (R23, R271). -/
structure MainUnit where
  ops : List MainOp
  cycles : Nat
  deriving DecidableEq, Repr, Inhabited

/-- One instruction of the co-CPU (R23, R271). -/
structure CoUnit where
  ops : List CoOp
  cycles : Nat
  deriving DecidableEq, Repr, Inhabited

/-- One VDP slot: its operations in order, the cycles, and whether it raised the new-frame edge (R271). -/
structure VdpUnit where
  ops : List VdpOp
  cycles : Nat
  newFrame : Bool
  deriving DecidableEq, Repr, Inhabited

/-- One audio tick: the cycles, and the duration its driver computed for `Sound.tick` (R271, R278). -/
structure AudioUnit where
  cycles : Nat
  micros : Nat
  deriving DecidableEq, Repr, Inhabited

/-- The operations, in the order of spec/opcode_table.json. Format E rows carry the don't-care lines of their pattern; a row
whose pattern fixes a line, a value or a mode has no operand for it. -/
inductive Instr where
  /- Format B: bus transactions. -/
  | memRead (n : Size) (addr : BitVec 32)                       -- R100
  | memWrite (addr : BitVec 32) (v : BusDatum)                  -- R101
  | cartRd (n : Width) (a : Addr)                               -- R102
  | cartWr (a : Addr) (v : Datum)                               -- R103
  | ramRd (n : Width) (a : Addr)                                -- R104
  | ramWr (a : Addr) (v : Datum)                                -- R105
  | rsvRd (n : Width) (a : Addr)                                -- R106
  | rsvWr (a : Addr) (v : Datum)                                -- R107
  | coRd (n : Width) (a : Addr)                                 -- R108
  | coWr (a : Addr) (v : Datum)                                 -- R109
  | ioRd (n : Width) (a : Addr)                                 -- R110
  | ioWr (a : Addr) (v : Datum)                                 -- R111
  | regRd (n : Width) (a : Addr)                                -- R112
  | regWr (a : Addr) (v : Datum)                                -- R113
  | vdpRd (n : Width) (a : Addr)                                -- R114
  | vdpWr (a : Addr) (v : Datum)                                -- R115
  | unmappedRd (n : Width) (a : Addr)                           -- R116
  | unmappedWr (a : Addr) (v : Datum)                           -- R117
  | vdpRdData (n : Width) (a : Addr)                            -- R114
  | vdpRdControl (n : Width) (a : Addr)                         -- R114
  | vdpRdHv (n : Width) (a : Addr)                              -- R114
  | vdpRdUnexpected (n : Width) (a : Addr)                      -- R114
  | vdpWrData (a : Addr) (v : Datum)                            -- R115
  | vdpWrControl (a : Addr) (v : Datum)                         -- R115
  | vdpWrUnexpected (a : Addr) (v : Datum)                      -- R115
  | vdpWrDeferred (a : Addr) (v : Datum)                        -- R118
  | memmodeWr (a : Addr) (val : Word)                           -- R140
  | busreqWr (a : Addr) (val : Word)                            -- R141
  | coresetWr (a : Addr) (val : Word)                           -- R142
  | bankselWr (a : Addr) (val : Word)                           -- R143
  | tmssWr (a : Addr) (val : Word)                              -- R144
  | regOtherWr (a : Addr) (val : Word)                          -- R145
  | busreqRd (n : Width) (a : Addr)                             -- R146
  | regOtherRd (n : Width) (a : Addr)                           -- R147
  /- Format V: register values. -/
  | busreqAssert (val : Word)                                   -- R141
  | busreqRelease                                               -- R141
  | busreqUnexpected (a : Addr) (val : Word)                    -- R141
  | coresetAssert (a : Addr)                                    -- R142
  | coresetRelease                                              -- R142
  | coresetReleaseAlt                                           -- R142
  | coresetUnexpected (a : Addr) (val : Word)                   -- R142
  | overlayCtrl (val : Word)                                    -- R170
  | bankValue (val : Word)                                      -- R167
  /- Format E: EEPROM line samples, tuple `pc pd c d`. -/
  | eepStart                                                    -- R192, 1110
  | eepStop                                                     -- R193, 1011
  | standbyRise (pd d : Bool)                                   -- R194, 0x1x
  | standbyFall (pd d : Bool)                                   -- R194, 1x0x
  | gwaRise (pd d : Bool)                                       -- R195
  | gwaFall (pd d : Bool)                                       -- R196
  | writeRise (pd d : Bool)                                     -- R197
  | writeFall (pd d : Bool)                                     -- R198
  | readRise (pd d : Bool)                                      -- R199
  | readFall (pd d : Bool)                                      -- R200
  | waitStopRise (pd d : Bool)                                  -- R201
  | waitStopFall (pd d : Bool)                                  -- R201
  | eepNoneLow (pd d : Bool)                                    -- R203, 0x0x
  | eepNoneHigh0                                                -- R203, 1010
  | eepNoneHigh1                                                -- R203, 1111
  /- Format P: port operations. -/
  | arbPen (cpu : Cpu) (cycles : Nat)                           -- R250
  | arbTakepen (cpu : Cpu)                                      -- R251
  | arbDefer (e : DeferredWrite)                                -- R252
  | arbDrain                                                    -- R253
  | arbIrqMain                                                  -- R255
  | arbIrqCo                                                    -- R256
  | arbRunning                                                  -- R257
  | arbFreeze (b : Bool)                                        -- R258
  | vdpSetlines (v h : Bool)                                    -- R259
  | cpuIack (cpu : Cpu) (which : Irq)                           -- R260
  | mapRd (n : Size) (a : Addr)                                 -- R160
  | mapWr (a : Addr) (v : BusDatum)                             -- R160
  | mapBanksel (a : Addr) (val : Word)                          -- R160
  | linRd (n : Size) (a : Addr)                                 -- R162
  | linWr (a : Addr) (v : BusDatum)                             -- R163
  | linBanksel (a : Addr) (val : Word)                          -- R164
  | pagRd (n : Size) (a : Addr)                                 -- R165
  | pagWr (a : Addr) (v : BusDatum)                             -- R166
  | pagBanksel (a : Addr) (val : Word)                          -- R167
  | batRd (n : Size) (a : Addr)                                 -- R168
  | batWr (a : Addr) (v : BusDatum)                             -- R169
  | batBanksel (a : Addr) (val : Word)                          -- R170
  | sramDev (a : Addr) (acc : DevAccess)                        -- R171
  | eepromDev (a : Addr) (acc : DevAccess)                      -- R172
  | mapClose                                                    -- R175
  | eepStep (clock data : Bool)                                 -- R191
  | eepOut                                                      -- R202
  | dmaStart (o : DmaOperands)                                  -- R221
  | dmaSlotFill                                                 -- R222
  | dmaSlotCopy                                                 -- R223
  | dmaSlotM68k                                                 -- R224
  | dmaComplete                                                 -- R225
  | fifoPush (target : VdpTarget) (addr : Word) (data : Word)   -- R226
  | fifoDrain                                                   -- R227
  | dmaStatus                                                   -- R228
  | dmaQslots (res : HRes) (period : Period)                    -- R229
  | dmaReadyedge                                                -- R231
  | schTick                                                     -- R271
  | schNewframe                                                 -- R275
  | hostNewframe                                                -- R275
  | hostReset                                                   -- R310
  | hostClose                                                   -- R313
  deriving DecidableEq, Repr

end Sys2Proof
end

