-- ==== Sys2Proof/Config.lean ====
section
/-! DEFINITION. The session parameters `BusConfig` (R3, R5), their constraints, the parameters of the reset state, and the
free values: opaque constants that stand for what the spec does not determine (R23, U1 to U7). -/

namespace Sys2Proof

/-- The mapper variants (R18). -/
inductive MapperVariant where
  | linear
  | paged
  | battery
  deriving DecidableEq, Repr

/-- The overlay modes (R18, R168). -/
inductive OverlayMode where
  | disabled
  | readOnly
  | readWrite
  deriving DecidableEq, Repr

/-- OVERLAY_KIND (R5). -/
inductive OverlayKind where
  | sram
  | eeprom
  deriving DecidableEq, Repr

/-- The overlay of a cartridge that has one (R5: OVERLAY_KIND, OVERLAY_LO, OVERLAY_HI, OVERLAY_RESET_MODE). -/
structure Overlay where
  kind : OverlayKind
  lo : Addr
  hi : Addr
  resetMode : OverlayMode
  deriving DecidableEq, Repr

/-- SLOT_BUDGET and REFRESH_SLOTS (R5, R229). No rule of the block reads the refresh slots. -/
structure SlotFigures where
  h32Active : Nat
  h32Blank : Nat
  h40Active : Nat
  h40Blank : Nat
  refreshH32 : Nat
  refreshH40 : Nat
  deriving DecidableEq, Repr

/-- `BusConfig` (R3): every parameter of R5. `overlay` is none where OVERLAY_PRESENT is false; `addrTmss` is none where
ADDR_TMSS is unset (U23); SRAM_SIZE is derived (`BusConfig.sramSize`). `rom` lists bytes of the ROM image; a byte it does not
list is the free value `Config.romUnlisted`. -/
structure BusConfig where
  romSize : Nat
  romEnd : Addr
  rom : Memory
  overlay : Option Overlay
  eepromSize : Nat
  eepromAddrAckZero : Bool
  pageSize : Nat
  bankWindowBase : Nat
  bankValueMask : Word
  bankselLo : Addr
  bankselHi : Addr
  addrOverlayCtrl : Addr
  addrMemmode : Addr
  addrBusreq : Addr
  addrCoreset : Addr
  addrTmss : Option Addr
  coPenalty : Nat
  comemMask : Addr
  vdpWinHi : Addr
  vdpValidMask : Addr
  vdpValidMatch : Addr
  version : Byte
  fifoCapacity : Nat
  slots : SlotFigures
  divMain : Nat
  divCo : Nat
  divVdp : Nat
  divAudio : Nat
  vintLevel : Nat
  hintLevel : Nat
  deriving DecidableEq, Repr

/-- SRAM_SIZE (R5). -/
def BusConfig.sramSize (o : Overlay) : Nat := o.hi.toNat - o.lo.toNat + 1

/-- InOverlay (R168), also the range test of the override in R73. -/
def BusConfig.inOverlay (cfg : BusConfig) (a : Addr) : Bool :=
  match cfg.overlay with
  | none => false
  | some o => o.lo ≤ a && a ≤ o.hi

/-- The cartridge has the EEPROM device (R19). -/
def BusConfig.hasEeprom (cfg : BusConfig) : Bool :=
  match cfg.overlay with
  | none => false
  | some o => o.kind == .eeprom

/-- The cartridge has the SRAM device (R17). -/
def BusConfig.hasSram (cfg : BusConfig) : Bool :=
  match cfg.overlay with
  | none => false
  | some o => o.kind == .sram

/-- The spec default of OVERLAY_RESET_MODE (R5, D28). -/
def BusConfig.defaultResetMode (romEnd : Addr) (kind : OverlayKind) (lo : Addr) : OverlayMode :=
  if romEnd < lo || kind == .eeprom then .readWrite else .disabled

/-- An even address inside the REG window (R5). -/
def BusConfig.regAddrOk (a : Addr) : Bool :=
  0xA11000#24 ≤ a && a ≤ 0xA130FF#24 && a &&& 1#24 == 0#24

/-- The register addresses that must be pairwise distinct and outside the mapper-control range (R5). -/
def BusConfig.regAddrs (cfg : BusConfig) : List Addr :=
  [cfg.addrMemmode, cfg.addrBusreq, cfg.addrCoreset] ++ cfg.addrTmss.toList

/-- The constraints between parameters every model must assume (R5), with EEPROM_SIZE in 1..128, ROM_SIZE and the divisors at
least 1, and SLOT_BUDGET[res][ACTIVE] below SLOT_BUDGET[res][BLANK]; PAGE_SIZE at least 1 is DEDUCED from the division of R24. -/
def BusConfig.ok (cfg : BusConfig) : Bool :=
  1 ≤ cfg.romSize && cfg.romEnd < 0xA00000#24
  && (match cfg.overlay with
      | none => true
      | some o => o.lo ≤ o.hi && o.hi < 0xA00000#24)
  && 1 ≤ cfg.eepromSize && cfg.eepromSize ≤ 128
  && 1 ≤ cfg.pageSize
  && cfg.regAddrs.all BusConfig.regAddrOk
  && cfg.regAddrs.Nodup
  && 0xA11000#24 ≤ cfg.bankselLo && cfg.bankselLo ≤ cfg.bankselHi && cfg.bankselHi ≤ 0xA130FF#24
  && cfg.regAddrs.all (fun r => !(cfg.bankselLo ≤ r && r ≤ cfg.bankselHi))
  && cfg.bankselLo ≤ cfg.addrOverlayCtrl && cfg.addrOverlayCtrl ≤ cfg.bankselHi
  && cfg.addrOverlayCtrl &&& 1#24 == 0#24
  && cfg.slots.h32Active < cfg.slots.h32Blank && cfg.slots.h40Active < cfg.slots.h40Blank
  && 1 ≤ cfg.divMain && 1 ≤ cfg.divCo && 1 ≤ cfg.divVdp && 1 ≤ cfg.divAudio

/-! ## Free values

Each is an opaque constant: nothing can evaluate it, and a statement about it holds whatever it is. -/

/-- A ROM byte the image does not list (log entry 7). -/
opaque Config.romUnlisted : Nat → Byte

/-- `ram[i]` before its first write, in the given reset epoch (U1, log entry 5). -/
opaque Config.ramUnwritten : Nat → Nat → Byte

/-- `comem[i]` before its first write, in the given reset epoch (U2, log entry 5). -/
opaque Config.comemUnwritten : Nat → Nat → Byte

/-- `sram[i]` where no saved image and no write has set it (U3, R311, log entry 6). -/
opaque Config.sramImage : Nat → Byte

/-- `eep[i]` where no saved image and no write has set it (U3, R311, log entry 6). -/
opaque Config.eepImage : Nat → Byte

/-- Answers of `Vdp.readDataPort` once the input list is exhausted (U5, log entry 8). -/
opaque Config.freeDataPort : Nat → Word

/-- Answers of `Vdp.readControl` (U5, log entry 8). -/
opaque Config.freeControl : Nat → Word

/-- Answers of `Vdp.getVCounter` (U5, log entry 8). -/
opaque Config.freeVCounter : Nat → Byte

/-- Answers of `Vdp.getHCounter` (U5, log entry 8). -/
opaque Config.freeHCounter : Nat → Byte

/-- Answers of `Io.read` (U5, log entry 8). -/
opaque Config.freeIoRead : Nat → Byte

/-- Answers of `VdpMemRead` (U5, log entry 8). -/
opaque Config.freeVdpMem : Nat → Byte

/-- What the VDP does with a forwarded port word (U5, log entries 8 and 21). -/
opaque Config.freePortAnswer : Nat → PortAnswer

/-- The main CPU's next instruction (U5, log entries 8 and 9). -/
opaque Config.freeMainUnit : Nat → MainUnit

/-- The co-CPU's next instruction (U2, U5, log entries 8 and 9). -/
opaque Config.freeCoUnit : Nat → CoUnit

/-- The VDP's next slot (U5, U21, U22, log entries 8 and 9). -/
opaque Config.freeVdpUnit : Nat → VdpUnit

/-- The audio generator's next tick (U5, log entries 8 and 9). -/
opaque Config.freeAudioUnit : Nat → AudioUnit

/-- VERSION of the session State.reset describes (U7). -/
opaque Config.versionByte : Byte

/-- SLOT_BUDGET[H32][ACTIVE] of that session (R5: OPEN). -/
opaque Config.slotsH32 : Nat

/-- SLOT_BUDGET[H32][BLANK] exceeds it by this much and one. -/
opaque Config.slotsH32Extra : Nat

/-- SLOT_BUDGET[H40][ACTIVE] of that session (R5: OPEN). -/
opaque Config.slotsH40 : Nat

/-- SLOT_BUDGET[H40][BLANK] exceeds it by this much and one. -/
opaque Config.slotsH40Extra : Nat

/-- REFRESH_SLOTS[H32] of that session (R5: OPEN). -/
opaque Config.refreshH32 : Nat

/-- REFRESH_SLOTS[H40] of that session (R5: OPEN). -/
opaque Config.refreshH40 : Nat

/-- The session parameters of State.reset: DESIGN CHOICE (log entry 3): the spec's example CFG-A with the defaults of R5 and the
vector values of D10, D27 and D40; ROM contents, VERSION and the slot figures are free values. Statements quantify over `cfg`
and rest on none of these figures. -/
def Config.session : BusConfig where
  romSize := 0x300000
  romEnd := 0x3FFFFF#24
  rom := []
  overlay := none
  eepromSize := 128
  eepromAddrAckZero := true
  pageSize := 0x080000
  bankWindowBase := 0x380000
  bankValueMask := 0x3F#16
  bankselLo := 0xA130F0#24
  bankselHi := 0xA130FF#24
  addrOverlayCtrl := 0xA130F0#24
  addrMemmode := 0xA11000#24
  addrBusreq := 0xA11100#24
  addrCoreset := 0xA11200#24
  addrTmss := none
  coPenalty := 3
  comemMask := 0xFFFF#24
  vdpWinHi := 0xDFFFFF#24
  vdpValidMask := 0xE700E0#24
  vdpValidMatch := 0xC00000#24
  version := Config.versionByte
  fifoCapacity := 4
  slots :=
    { h32Active := Config.slotsH32
      h32Blank := Config.slotsH32 + Config.slotsH32Extra + 1
      h40Active := Config.slotsH40
      h40Blank := Config.slotsH40 + Config.slotsH40Extra + 1
      refreshH32 := Config.refreshH32
      refreshH40 := Config.refreshH40 }
  divMain := 7
  divCo := 15
  divVdp := 4
  divAudio := 1
  vintLevel := 6
  hintLevel := 4

end Sys2Proof
end

