-- ==== Sys2Proof/WellFormed.lean ====
section
/-! DEFINITION. Well-formed operations: the static part of each row's selecting pattern in spec/opcode_table.json (the address
windows the source fixes, the VDP port offsets, the Format V value patterns). What depends on a parameter or on the state (ROM_END,
the register addresses, the mapper variant, the EEPROM lines) is tested by the meanings. -/

namespace Sys2Proof

/-- Below the co-CPU window: the only place a cartridge or reserved address can be (R47). -/
def inCartSpace (a : Addr) : Bool := a < 0xA00000#24

/-- RAM window, table pattern 0xE00000 / 0xE00000 (R47). -/
def inRamWindow (a : Addr) : Bool := a &&& 0xE00000#24 == 0xE00000#24

/-- Co-CPU window, table pattern 0xA00000 / 0xFF0000 (R47). -/
def inCoWindow (a : Addr) : Bool := a &&& 0xFF0000#24 == 0xA00000#24

/-- IO window, table pattern 0xA10000 / 0xFFFFE0 (R47). -/
def inIoWindow (a : Addr) : Bool := a &&& 0xFFFFE0#24 == 0xA10000#24

/-- Internal control register window (R47). -/
def inRegWindow (a : Addr) : Bool := 0xA11000#24 ≤ a && a ≤ 0xA130FF#24

/-- VDP window, table pattern 0xC00000 / 0xE00000: the widest VDP_WIN_HI leaves (R47). -/
def inVdpWindow (a : Addr) : Bool := a &&& 0xE00000#24 == 0xC00000#24

/-- The gaps of R47, with everything above VDP_WIN_HI, which is a parameter. -/
def inGap (a : Addr) : Bool :=
  (0xA10020#24 ≤ a && a ≤ 0xA10FFF#24) || (0xA13100#24 ≤ a && a ≤ 0xDFFFFF#24)

/-- VDP port rows: the offset patterns of R75. -/
def offIsData (a : Addr) : Bool := a &&& 0x1C#24 == 0x00#24

/-- Offsets 0x04..0x07. -/
def offIsControl (a : Addr) : Bool := a &&& 0x1C#24 == 0x04#24

/-- Offsets 0x08..0x0E. -/
def offIsHv (a : Addr) : Bool := 0x08#24 ≤ a &&& 0x1F#24 && a &&& 0x1F#24 ≤ 0x0E#24

/-- Offsets 0x0F..0x1F. -/
def offIsNone (a : Addr) : Bool := 0x0F#24 ≤ a &&& 0x1F#24

/-- Format V, bus request (R77). -/
def valAsserts (val : Word) : Bool := val &&& 0x0100#16 != 0#16

/-- Format V, bus request, the third row (R77). -/
def busreqValUnexpected (val : Word) : Bool := !valAsserts val && val != 0#16

/-- Format V, co-CPU reset, the fourth row (R77). -/
def coresetValUnexpected (val : Word) : Bool := val != 0x0000#16 && val != 0x0100#16 && val != 0x0001#16

/-- The static check of an operation against its row. -/
def Instr.wf : Instr → Bool
  | .memRead _ _ => true
  | .memWrite _ _ => true
  | .cartRd _ a => inCartSpace a
  | .cartWr a _ => inCartSpace a
  | .ramRd _ a => inRamWindow a
  | .ramWr a _ => inRamWindow a
  | .rsvRd _ a => inCartSpace a
  | .rsvWr a _ => inCartSpace a
  | .coRd _ a => inCoWindow a
  | .coWr a _ => inCoWindow a
  | .ioRd _ a => inIoWindow a
  | .ioWr a _ => inIoWindow a
  | .regRd _ a => inRegWindow a
  | .regWr a _ => inRegWindow a
  | .vdpRd _ a => inVdpWindow a
  | .vdpWr a _ => inVdpWindow a
  | .unmappedRd _ a => inGap a
  | .unmappedWr a _ => inGap a
  | .vdpRdData _ a => inVdpWindow a && offIsData a
  | .vdpRdControl _ a => inVdpWindow a && offIsControl a
  | .vdpRdHv _ a => inVdpWindow a && offIsHv a
  | .vdpRdUnexpected _ a => inVdpWindow a && offIsNone a
  | .vdpWrData a _ => inVdpWindow a && offIsData a
  | .vdpWrControl a _ => inVdpWindow a && offIsControl a
  | .vdpWrUnexpected a _ => inVdpWindow a && (offIsHv a || offIsNone a)
  | .vdpWrDeferred a _ => inVdpWindow a && (offIsData a || offIsControl a)
  | .memmodeWr a _ => inRegWindow a
  | .busreqWr a _ => inRegWindow a
  | .coresetWr a _ => inRegWindow a
  | .bankselWr a _ => inRegWindow a
  | .tmssWr a _ => inRegWindow a
  | .regOtherWr a _ => inRegWindow a
  | .busreqRd _ a => inRegWindow a
  | .regOtherRd _ a => inRegWindow a
  | .busreqAssert val => valAsserts val
  | .busreqRelease => true
  | .busreqUnexpected a val => inRegWindow a && busreqValUnexpected val
  | .coresetAssert a => inRegWindow a
  | .coresetRelease => true
  | .coresetReleaseAlt => true
  | .coresetUnexpected a val => inRegWindow a && coresetValUnexpected val
  | .overlayCtrl _ => true
  | .bankValue _ => true
  | .eepStart => true
  | .eepStop => true
  | .standbyRise _ _ => true
  | .standbyFall _ _ => true
  | .gwaRise _ _ => true
  | .gwaFall _ _ => true
  | .writeRise _ _ => true
  | .writeFall _ _ => true
  | .readRise _ _ => true
  | .readFall _ _ => true
  | .waitStopRise _ _ => true
  | .waitStopFall _ _ => true
  | .eepNoneLow _ _ => true
  | .eepNoneHigh0 => true
  | .eepNoneHigh1 => true
  | .arbPen _ _ => true
  | .arbTakepen _ => true
  | .arbDefer _ => true
  | .arbDrain => true
  | .arbIrqMain => true
  | .arbIrqCo => true
  | .arbRunning => true
  | .arbFreeze _ => true
  | .vdpSetlines _ _ => true
  | .cpuIack _ _ => true
  | .mapRd _ _ => true
  | .mapWr _ _ => true
  | .mapBanksel _ _ => true
  | .linRd _ _ => true
  | .linWr _ _ => true
  | .linBanksel _ _ => true
  | .pagRd _ _ => true
  | .pagWr _ _ => true
  | .pagBanksel _ _ => true
  | .batRd _ _ => true
  | .batWr _ _ => true
  | .batBanksel _ _ => true
  | .sramDev _ _ => true
  | .eepromDev _ _ => true
  | .mapClose => true
  | .eepStep _ _ => true
  | .eepOut => true
  | .dmaStart _ => true
  | .dmaSlotFill => true
  | .dmaSlotCopy => true
  | .dmaSlotM68k => true
  | .dmaComplete => true
  | .fifoPush _ _ _ => true
  | .fifoDrain => true
  | .dmaStatus => true
  | .dmaQslots _ _ => true
  | .dmaReadyedge => true
  | .schTick => true
  | .schNewframe => true
  | .hostNewframe => true
  | .hostReset => true
  | .hostClose => true

end Sys2Proof
end

