-- ==== Sys2Proof/Decode.lean ====
section
/-! DEFINITION. The request records. The source gives no binary encoding of any interface (R70, D1), so the record layout is a
DESIGN CHOICE (log entry 2): one byte with the row's place in spec/opcode_table.json, then the row's operands, each least
significant byte first. Beside these full records there are bare table words: the bits that the table itself numbers for a row
(the 24-bit address of a Format B row, the 16-bit value of a Format V row, the port offset of a VDP row), read as the FIRST row
of the table they match. `decode` is total, rejects by name, and `encode` is its inverse on well-formed operations. -/

namespace Sys2Proof

/-- Why a record is no operation. Safe: nothing runs. -/
inductive Reject where
  /-- the record has no byte -/
  | empty
  /-- its first byte names no row and no bare form -/
  | unknownRow (row : Nat)
  /-- an operand field is cut short or holds no value of its type -/
  | badField
  /-- bytes are left over after the last operand -/
  | tooLong
  /-- the operands do not fit the row's static pattern (`Instr.wf`) -/
  | notWellFormed
  /-- a bare table word that no row of its width matches -/
  | noTableRow
  deriving DecidableEq, Repr

/-! ## Operand fields -/

/-- A field reader: the operand and the bytes after it. -/
abbrev Get (α : Type) := List Byte → Option (α × List Byte)

/-- Fields 8 bits wide. -/
def getByte : Get Byte
  | b :: bs => some (b, bs)
  | [] => none

/-- 16 bits. -/
def getWord : Get Word
  | b0 :: b1 :: bs => some (b1 ++ b0, bs)
  | _ => none

/-- 24 bits. -/
def getAddr : Get Addr
  | b0 :: b1 :: b2 :: bs => some ((b2 ++ b1 : Word) ++ b0, bs)
  | _ => none

/-- 32 bits. -/
def getLong : Get Long
  | b0 :: b1 :: b2 :: b3 :: bs => some ((b3 ++ b2 : Word) ++ (b1 ++ b0 : Word), bs)
  | _ => none

/-- The presented bus address, before masking (R41). -/
def getAddr32 : Get (BitVec 32) := getLong

/-- One line or flag bit in a byte: 0 or 1. -/
def getBit : Get Bool
  | 0#8 :: bs => some (false, bs)
  | 1#8 :: bs => some (true, bs)
  | _ => none

/-- Handler sizes by their n (R71). -/
def getWidth : Get Width
  | 1#8 :: bs => some (.byte, bs)
  | 2#8 :: bs => some (.word, bs)
  | _ => none

/-- Bus sizes by their n (R71). -/
def getSize : Get Size
  | 1#8 :: bs => some (.byte, bs)
  | 2#8 :: bs => some (.word, bs)
  | 4#8 :: bs => some (.long, bs)
  | _ => none

/-- A handler datum: n, then 8n bits. -/
def getDatum : Get Datum
  | 1#8 :: b :: bs => some (.byte b, bs)
  | 2#8 :: b0 :: b1 :: bs => some (.word (b1 ++ b0), bs)
  | _ => none

/-- A bus datum: n, then 8n bits. -/
def getBusDatum : Get BusDatum
  | 1#8 :: b :: bs => some (.byte b, bs)
  | 2#8 :: b0 :: b1 :: bs => some (.word (b1 ++ b0), bs)
  | 4#8 :: b0 :: b1 :: b2 :: b3 :: bs => some (.long ((b3 ++ b2 : Word) ++ (b1 ++ b0 : Word)), bs)
  | _ => none

/-- A CPU: 0 MAIN, 1 CO. -/
def getCpu : Get Cpu
  | 0#8 :: bs => some (.main, bs)
  | 1#8 :: bs => some (.co, bs)
  | _ => none

/-- An interrupt: 0 V, 1 H. -/
def getIrq : Get Irq
  | 0#8 :: bs => some (.v, bs)
  | 1#8 :: bs => some (.h, bs)
  | _ => none

/-- A VDP memory: 0 VRAM, 1 CRAM, 2 VSRAM. -/
def getTarget : Get VdpTarget
  | 0#8 :: bs => some (.vram, bs)
  | 1#8 :: bs => some (.cram, bs)
  | 2#8 :: bs => some (.vsram, bs)
  | _ => none

/-- A transfer mode: 1 FILL, 2 COPY, 3 M68K_TO_VRAM. -/
def getKind : Get DmaKind
  | 1#8 :: bs => some (.fill, bs)
  | 2#8 :: bs => some (.copy, bs)
  | 3#8 :: bs => some (.m68kToVram, bs)
  | _ => none

/-- A horizontal resolution: 0 H32, 1 H40. -/
def getHRes : Get HRes
  | 0#8 :: bs => some (.h32, bs)
  | 1#8 :: bs => some (.h40, bs)
  | _ => none

/-- A display period: 0 ACTIVE, 1 BLANK. -/
def getPeriod : Get Period
  | 0#8 :: bs => some (.active, bs)
  | 1#8 :: bs => some (.blank, bs)
  | _ => none

/-- A natural number: all the remaining bytes, in base 256. It has no width in the spec (R12, R20), so the field has none. -/
def natOfBytes : List Byte → Nat
  | [] => 0
  | b :: bs => b.toNat + 256 * natOfBytes bs

/-- The natural-number field, always the last one. -/
def getNat : Get Nat := fun bs => some (natOfBytes bs, [])

/-- A device access: 0 read and its size, 1 write and its datum. -/
def getAccess : Get DevAccess
  | 0#8 :: bs => (getWidth bs).map (fun p => (.read p.1, p.2))
  | 1#8 :: bs => (getDatum bs).map (fun p => (.write p.1, p.2))
  | _ => none

/-- A deferred write: address, datum (R13). -/
def getDeferred : Get DeferredWrite := fun bs => do
  let (a, bs) ← getAddr bs
  let (d, bs) ← getDatum bs
  some (⟨a, d⟩, bs)

/-- The operands of DMA.START, the length last (R221). -/
def getStart : Get DmaOperands := fun bs => do
  let (mode, bs) ← getKind bs
  let (source, bs) ← getAddr bs
  let (destination, bs) ← getWord bs
  let (target, bs) ← getTarget bs
  let (autoInc, bs) ← getByte bs
  let (fillValue, bs) ← getByte bs
  let (length, bs) ← getNat bs
  some (⟨mode, length, source, destination, target, autoInc, fillValue⟩, bs)

/-- A row without operands. -/
def fields0 (i : Instr) : List Byte → Except Reject Instr
  | [] => .ok i
  | _ => .error .tooLong

/-- A row with one operand. -/
def fields1 {α : Type} (gx : Get α) (k : α → Instr) (bs : List Byte) : Except Reject Instr :=
  match gx bs with
  | none => .error .badField
  | some (x, bs) => fields0 (k x) bs

/-- A row with two operands. -/
def fields2 {α β : Type} (gx : Get α) (gy : Get β) (k : α → β → Instr) (bs : List Byte) : Except Reject Instr :=
  match gx bs with
  | none => .error .badField
  | some (x, bs) => fields1 gy (k x) bs

/-- A row with three operands. -/
def fields3 {α β γ : Type} (gx : Get α) (gy : Get β) (gz : Get γ) (k : α → β → γ → Instr) (bs : List Byte) :
    Except Reject Instr :=
  match gx bs with
  | none => .error .badField
  | some (x, bs) => fields2 gy gz (k x) bs

/-! ## The rows -/

/-- Format B: the bus transactions, the region handlers and the VDP ports: rows 0 to 25. -/
def rowsBus : List (List Byte → Except Reject Instr) :=
  [ fields2 getSize getAddr32 .memRead
  , fields2 getAddr32 getBusDatum .memWrite
  , fields2 getWidth getAddr .cartRd
  , fields2 getAddr getDatum .cartWr
  , fields2 getWidth getAddr .ramRd
  , fields2 getAddr getDatum .ramWr
  , fields2 getWidth getAddr .rsvRd
  , fields2 getAddr getDatum .rsvWr
  , fields2 getWidth getAddr .coRd
  , fields2 getAddr getDatum .coWr
  , fields2 getWidth getAddr .ioRd
  , fields2 getAddr getDatum .ioWr
  , fields2 getWidth getAddr .regRd
  , fields2 getAddr getDatum .regWr
  , fields2 getWidth getAddr .vdpRd
  , fields2 getAddr getDatum .vdpWr
  , fields2 getWidth getAddr .unmappedRd
  , fields2 getAddr getDatum .unmappedWr
  , fields2 getWidth getAddr .vdpRdData
  , fields2 getWidth getAddr .vdpRdControl
  , fields2 getWidth getAddr .vdpRdHv
  , fields2 getWidth getAddr .vdpRdUnexpected
  , fields2 getAddr getDatum .vdpWrData
  , fields2 getAddr getDatum .vdpWrControl
  , fields2 getAddr getDatum .vdpWrUnexpected
  , fields2 getAddr getDatum .vdpWrDeferred ]

/-- Format B: the REG sub-decode: rows 26 to 33. -/
def rowsReg : List (List Byte → Except Reject Instr) :=
  [ fields2 getAddr getWord .memmodeWr
  , fields2 getAddr getWord .busreqWr
  , fields2 getAddr getWord .coresetWr
  , fields2 getAddr getWord .bankselWr
  , fields2 getAddr getWord .tmssWr
  , fields2 getAddr getWord .regOtherWr
  , fields2 getWidth getAddr .busreqRd
  , fields2 getWidth getAddr .regOtherRd ]

/-- Format V: rows 34 to 42. -/
def rowsVal : List (List Byte → Except Reject Instr) :=
  [ fields1 getWord .busreqAssert
  , fields0 .busreqRelease
  , fields2 getAddr getWord .busreqUnexpected
  , fields1 getAddr .coresetAssert
  , fields0 .coresetRelease
  , fields0 .coresetReleaseAlt
  , fields2 getAddr getWord .coresetUnexpected
  , fields1 getWord .overlayCtrl
  , fields1 getWord .bankValue ]

/-- Format E: rows 43 to 57. -/
def rowsLine : List (List Byte → Except Reject Instr) :=
  [ fields0 .eepStart
  , fields0 .eepStop
  , fields2 getBit getBit .standbyRise
  , fields2 getBit getBit .standbyFall
  , fields2 getBit getBit .gwaRise
  , fields2 getBit getBit .gwaFall
  , fields2 getBit getBit .writeRise
  , fields2 getBit getBit .writeFall
  , fields2 getBit getBit .readRise
  , fields2 getBit getBit .readFall
  , fields2 getBit getBit .waitStopRise
  , fields2 getBit getBit .waitStopFall
  , fields2 getBit getBit .eepNoneLow
  , fields0 .eepNoneHigh0
  , fields0 .eepNoneHigh1 ]

/-- Format P: the arbiter: rows 58 to 67. -/
def rowsArb : List (List Byte → Except Reject Instr) :=
  [ fields2 getCpu getNat .arbPen
  , fields1 getCpu .arbTakepen
  , fields1 getDeferred .arbDefer
  , fields0 .arbDrain
  , fields0 .arbIrqMain
  , fields0 .arbIrqCo
  , fields0 .arbRunning
  , fields1 getBit .arbFreeze
  , fields2 getBit getBit .vdpSetlines
  , fields2 getCpu getIrq .cpuIack ]

/-- Format P: the mapper and the EEPROM: rows 68 to 84. -/
def rowsMap : List (List Byte → Except Reject Instr) :=
  [ fields2 getSize getAddr .mapRd
  , fields2 getAddr getBusDatum .mapWr
  , fields2 getAddr getWord .mapBanksel
  , fields2 getSize getAddr .linRd
  , fields2 getAddr getBusDatum .linWr
  , fields2 getAddr getWord .linBanksel
  , fields2 getSize getAddr .pagRd
  , fields2 getAddr getBusDatum .pagWr
  , fields2 getAddr getWord .pagBanksel
  , fields2 getSize getAddr .batRd
  , fields2 getAddr getBusDatum .batWr
  , fields2 getAddr getWord .batBanksel
  , fields2 getAddr getAccess .sramDev
  , fields2 getAddr getAccess .eepromDev
  , fields0 .mapClose
  , fields2 getBit getBit .eepStep
  , fields0 .eepOut ]

/-- Format P: the DMA and FIFO engine: rows 85 to 94. -/
def rowsDma : List (List Byte → Except Reject Instr) :=
  [ fields1 getStart .dmaStart
  , fields0 .dmaSlotFill
  , fields0 .dmaSlotCopy
  , fields0 .dmaSlotM68k
  , fields0 .dmaComplete
  , fields3 getTarget getWord getWord .fifoPush
  , fields0 .fifoDrain
  , fields0 .dmaStatus
  , fields2 getHRes getPeriod .dmaQslots
  , fields0 .dmaReadyedge ]

/-- Format P: the scheduler and the host: rows 95 to 99. -/
def rowsSch : List (List Byte → Except Reject Instr) :=
  [ fields0 .schTick
  , fields0 .schNewframe
  , fields0 .hostNewframe
  , fields0 .hostReset
  , fields0 .hostClose ]

/-- The hundred rows of the opcode table, in its order. -/
def opcodeRows : List (List Byte → Except Reject Instr) :=
  rowsBus ++ rowsReg ++ rowsVal ++ rowsLine ++ rowsArb ++ rowsMap ++ rowsDma ++ rowsSch

/-! ## Bare table words -/

/-- A row of the table that carries bits: their number, match, mask, and the operation a matching word stands for (operand
words of zeros, so a read is a BYTE read and a written value is 0). -/
structure TableRow where
  nbits : Nat
  pattern : Nat
  mask : Nat
  op : Nat → Instr

/-- The rows of spec/opcode_table.json with a match and a mask, in its order. The port rows number the port offset; the
offset is presented in the VDP window at 0xC00000. -/
def tableRows : List TableRow :=
  [ ⟨24, 0xE00000, 0xE00000, fun w => .ramRd .byte (BitVec.ofNat 24 w)⟩
  , ⟨24, 0xE00000, 0xE00000, fun w => .ramWr (BitVec.ofNat 24 w) (.byte 0#8)⟩
  , ⟨24, 0xA00000, 0xFF0000, fun w => .coRd .byte (BitVec.ofNat 24 w)⟩
  , ⟨24, 0xA00000, 0xFF0000, fun w => .coWr (BitVec.ofNat 24 w) (.byte 0#8)⟩
  , ⟨24, 0xA10000, 0xFFFFE0, fun w => .ioRd .byte (BitVec.ofNat 24 w)⟩
  , ⟨24, 0xA10000, 0xFFFFE0, fun w => .ioWr (BitVec.ofNat 24 w) (.byte 0#8)⟩
  , ⟨24, 0xC00000, 0xE00000, fun w => .vdpRd .byte (BitVec.ofNat 24 w)⟩
  , ⟨24, 0xC00000, 0xE00000, fun w => .vdpWr (BitVec.ofNat 24 w) (.byte 0#8)⟩
  , ⟨8, 0x00, 0x1C, fun w => .vdpRdData .byte (0xC00000#24 + BitVec.ofNat 24 w)⟩
  , ⟨8, 0x04, 0x1C, fun w => .vdpRdControl .byte (0xC00000#24 + BitVec.ofNat 24 w)⟩
  , ⟨8, 0x00, 0x1C, fun w => .vdpWrData (0xC00000#24 + BitVec.ofNat 24 w) (.byte 0#8)⟩
  , ⟨8, 0x04, 0x1C, fun w => .vdpWrControl (0xC00000#24 + BitVec.ofNat 24 w) (.byte 0#8)⟩ ]
  ++
  [ ⟨24, 0xA11000, 0xFFFFFE, fun w => .memmodeWr (BitVec.ofNat 24 w) 0#16⟩
  , ⟨24, 0xA11100, 0xFFFFFE, fun w => .busreqWr (BitVec.ofNat 24 w) 0#16⟩
  , ⟨24, 0xA11200, 0xFFFFFE, fun w => .coresetWr (BitVec.ofNat 24 w) 0#16⟩
  , ⟨24, 0xA130F0, 0xFFFFF0, fun w => .bankselWr (BitVec.ofNat 24 w) 0#16⟩
  , ⟨24, 0xA11100, 0xFFFFFE, fun w => .busreqRd .byte (BitVec.ofNat 24 w)⟩
  , ⟨16, 0x0100, 0x0100, fun w => .busreqAssert (BitVec.ofNat 16 w)⟩
  , ⟨16, 0x0000, 0xFFFF, fun _ => .busreqRelease⟩
  , ⟨16, 0x0000, 0xFFFF, fun _ => .coresetAssert 0xA11200#24⟩
  , ⟨16, 0x0100, 0xFFFF, fun _ => .coresetRelease⟩
  , ⟨16, 0x0001, 0xFFFF, fun _ => .coresetReleaseAlt⟩ ]

/-- A row of this width matches the word. -/
def TableRow.matches (r : TableRow) (nbits w : Nat) : Bool := r.nbits == nbits && w &&& r.mask == r.pattern

/-- The first row of the table that a bare word of this width matches. -/
def decodeBare (nbits w : Nat) : Except Reject Instr :=
  match tableRows.find? (fun r => r.matches nbits w) with
  | none => .error .noTableRow
  | some r => .ok (r.op w)

/-! ## The decoder -/

/-- A record without the static check. The first bytes 0xF8, 0xF9, 0xFA announce a bare table word of 24, 16 and 8 bits. -/
def decodeFields : List Byte → Except Reject Instr
  | [] => .error .empty
  | [0xF8#8, b0, b1, b2] => decodeBare 24 (natOfBytes [b0, b1, b2])
  | [0xF9#8, b0, b1] => decodeBare 16 (natOfBytes [b0, b1])
  | [0xFA#8, b0] => decodeBare 8 (natOfBytes [b0])
  | row :: bs =>
    match opcodeRows[row.toNat]? with
    | none => .error (.unknownRow row.toNat)
    | some fields => fields bs

/-- The decoder: total, rejecting by name, and every operation it answers is well-formed. -/
def decode (bs : List Byte) : Except Reject Instr :=
  match decodeFields bs with
  | .error e => .error e
  | .ok i => if i.wf then .ok i else .error .notWellFormed

/-! ## The encoder -/

/-- 8 bits. -/
def putByte (b : Byte) : List Byte := [b]

/-- 16 bits, least significant byte first. -/
def putWord (w : Word) : List Byte := [w.extractLsb' 0 8, w.extractLsb' 8 8]

/-- 24 bits. -/
def putAddr (a : Addr) : List Byte := [a.extractLsb' 0 8, a.extractLsb' 8 8, a.extractLsb' 16 8]

/-- 32 bits. -/
def putLong (v : Long) : List Byte :=
  [v.extractLsb' 0 8, v.extractLsb' 8 8, v.extractLsb' 16 8, v.extractLsb' 24 8]

/-- The presented bus address. -/
def putAddr32 (a : BitVec 32) : List Byte := putLong a

/-- A bit in a byte. -/
def putBit : Bool → List Byte
  | false => [0#8]
  | true => [1#8]

/-- A handler size. -/
def putWidth : Width → List Byte
  | .byte => [1#8]
  | .word => [2#8]

/-- A bus size. -/
def putSize : Size → List Byte
  | .byte => [1#8]
  | .word => [2#8]
  | .long => [4#8]

/-- A handler datum. -/
def putDatum : Datum → List Byte
  | .byte b => 1#8 :: putByte b
  | .word w => 2#8 :: putWord w

/-- A bus datum. -/
def putBusDatum : BusDatum → List Byte
  | .byte b => 1#8 :: putByte b
  | .word w => 2#8 :: putWord w
  | .long v => 4#8 :: putLong v

/-- A CPU. -/
def putCpu : Cpu → List Byte
  | .main => [0#8]
  | .co => [1#8]

/-- An interrupt. -/
def putIrq : Irq → List Byte
  | .v => [0#8]
  | .h => [1#8]

/-- A VDP memory. -/
def putTarget : VdpTarget → List Byte
  | .vram => [0#8]
  | .cram => [1#8]
  | .vsram => [2#8]

/-- A transfer mode. -/
def putKind : DmaKind → List Byte
  | .fill => [1#8]
  | .copy => [2#8]
  | .m68kToVram => [3#8]

/-- A horizontal resolution. -/
def putHRes : HRes → List Byte
  | .h32 => [0#8]
  | .h40 => [1#8]

/-- A display period. -/
def putPeriod : Period → List Byte
  | .active => [0#8]
  | .blank => [1#8]

/-- The base-256 digits of a number, at most `fuel` of them, least significant first. -/
def bytesOfNat : Nat → Nat → List Byte
  | 0, _ => []
  | fuel + 1, n => if n = 0 then [] else BitVec.ofNat 8 n :: bytesOfNat fuel (n / 256)

/-- A natural number, in as many bytes as it takes. -/
def putNat (n : Nat) : List Byte := bytesOfNat n n

/-- A device access. -/
def putAccess : DevAccess → List Byte
  | .read n => 0#8 :: putWidth n
  | .write d => 1#8 :: putDatum d

/-- A deferred write. -/
def putDeferred (e : DeferredWrite) : List Byte := putAddr e.addr ++ putDatum e.data

/-- The operands of DMA.START. -/
def putStart (o : DmaOperands) : List Byte :=
  putKind o.mode ++ (putAddr o.source ++ (putWord o.destination ++ (putTarget o.target ++
    (putByte o.autoInc ++ (putByte o.fillValue ++ putNat o.length)))))

/-- The record of an operation: its row, then its operands. -/
def encode : Instr → List Byte
  | .memRead x y => 0#8 :: (putSize x ++ putAddr32 y)
  | .memWrite x y => 1#8 :: (putAddr32 x ++ putBusDatum y)
  | .cartRd x y => 2#8 :: (putWidth x ++ putAddr y)
  | .cartWr x y => 3#8 :: (putAddr x ++ putDatum y)
  | .ramRd x y => 4#8 :: (putWidth x ++ putAddr y)
  | .ramWr x y => 5#8 :: (putAddr x ++ putDatum y)
  | .rsvRd x y => 6#8 :: (putWidth x ++ putAddr y)
  | .rsvWr x y => 7#8 :: (putAddr x ++ putDatum y)
  | .coRd x y => 8#8 :: (putWidth x ++ putAddr y)
  | .coWr x y => 9#8 :: (putAddr x ++ putDatum y)
  | .ioRd x y => 10#8 :: (putWidth x ++ putAddr y)
  | .ioWr x y => 11#8 :: (putAddr x ++ putDatum y)
  | .regRd x y => 12#8 :: (putWidth x ++ putAddr y)
  | .regWr x y => 13#8 :: (putAddr x ++ putDatum y)
  | .vdpRd x y => 14#8 :: (putWidth x ++ putAddr y)
  | .vdpWr x y => 15#8 :: (putAddr x ++ putDatum y)
  | .unmappedRd x y => 16#8 :: (putWidth x ++ putAddr y)
  | .unmappedWr x y => 17#8 :: (putAddr x ++ putDatum y)
  | .vdpRdData x y => 18#8 :: (putWidth x ++ putAddr y)
  | .vdpRdControl x y => 19#8 :: (putWidth x ++ putAddr y)
  | .vdpRdHv x y => 20#8 :: (putWidth x ++ putAddr y)
  | .vdpRdUnexpected x y => 21#8 :: (putWidth x ++ putAddr y)
  | .vdpWrData x y => 22#8 :: (putAddr x ++ putDatum y)
  | .vdpWrControl x y => 23#8 :: (putAddr x ++ putDatum y)
  | .vdpWrUnexpected x y => 24#8 :: (putAddr x ++ putDatum y)
  | .vdpWrDeferred x y => 25#8 :: (putAddr x ++ putDatum y)
  | .memmodeWr x y => 26#8 :: (putAddr x ++ putWord y)
  | .busreqWr x y => 27#8 :: (putAddr x ++ putWord y)
  | .coresetWr x y => 28#8 :: (putAddr x ++ putWord y)
  | .bankselWr x y => 29#8 :: (putAddr x ++ putWord y)
  | .tmssWr x y => 30#8 :: (putAddr x ++ putWord y)
  | .regOtherWr x y => 31#8 :: (putAddr x ++ putWord y)
  | .busreqRd x y => 32#8 :: (putWidth x ++ putAddr y)
  | .regOtherRd x y => 33#8 :: (putWidth x ++ putAddr y)
  | .busreqAssert x => 34#8 :: putWord x
  | .busreqRelease => 35#8 :: []
  | .busreqUnexpected x y => 36#8 :: (putAddr x ++ putWord y)
  | .coresetAssert x => 37#8 :: putAddr x
  | .coresetRelease => 38#8 :: []
  | .coresetReleaseAlt => 39#8 :: []
  | .coresetUnexpected x y => 40#8 :: (putAddr x ++ putWord y)
  | .overlayCtrl x => 41#8 :: putWord x
  | .bankValue x => 42#8 :: putWord x
  | .eepStart => 43#8 :: []
  | .eepStop => 44#8 :: []
  | .standbyRise x y => 45#8 :: (putBit x ++ putBit y)
  | .standbyFall x y => 46#8 :: (putBit x ++ putBit y)
  | .gwaRise x y => 47#8 :: (putBit x ++ putBit y)
  | .gwaFall x y => 48#8 :: (putBit x ++ putBit y)
  | .writeRise x y => 49#8 :: (putBit x ++ putBit y)
  | .writeFall x y => 50#8 :: (putBit x ++ putBit y)
  | .readRise x y => 51#8 :: (putBit x ++ putBit y)
  | .readFall x y => 52#8 :: (putBit x ++ putBit y)
  | .waitStopRise x y => 53#8 :: (putBit x ++ putBit y)
  | .waitStopFall x y => 54#8 :: (putBit x ++ putBit y)
  | .eepNoneLow x y => 55#8 :: (putBit x ++ putBit y)
  | .eepNoneHigh0 => 56#8 :: []
  | .eepNoneHigh1 => 57#8 :: []
  | .arbPen x y => 58#8 :: (putCpu x ++ putNat y)
  | .arbTakepen x => 59#8 :: putCpu x
  | .arbDefer x => 60#8 :: putDeferred x
  | .arbDrain => 61#8 :: []
  | .arbIrqMain => 62#8 :: []
  | .arbIrqCo => 63#8 :: []
  | .arbRunning => 64#8 :: []
  | .arbFreeze x => 65#8 :: putBit x
  | .vdpSetlines x y => 66#8 :: (putBit x ++ putBit y)
  | .cpuIack x y => 67#8 :: (putCpu x ++ putIrq y)
  | .mapRd x y => 68#8 :: (putSize x ++ putAddr y)
  | .mapWr x y => 69#8 :: (putAddr x ++ putBusDatum y)
  | .mapBanksel x y => 70#8 :: (putAddr x ++ putWord y)
  | .linRd x y => 71#8 :: (putSize x ++ putAddr y)
  | .linWr x y => 72#8 :: (putAddr x ++ putBusDatum y)
  | .linBanksel x y => 73#8 :: (putAddr x ++ putWord y)
  | .pagRd x y => 74#8 :: (putSize x ++ putAddr y)
  | .pagWr x y => 75#8 :: (putAddr x ++ putBusDatum y)
  | .pagBanksel x y => 76#8 :: (putAddr x ++ putWord y)
  | .batRd x y => 77#8 :: (putSize x ++ putAddr y)
  | .batWr x y => 78#8 :: (putAddr x ++ putBusDatum y)
  | .batBanksel x y => 79#8 :: (putAddr x ++ putWord y)
  | .sramDev x y => 80#8 :: (putAddr x ++ putAccess y)
  | .eepromDev x y => 81#8 :: (putAddr x ++ putAccess y)
  | .mapClose => 82#8 :: []
  | .eepStep x y => 83#8 :: (putBit x ++ putBit y)
  | .eepOut => 84#8 :: []
  | .dmaStart x => 85#8 :: putStart x
  | .dmaSlotFill => 86#8 :: []
  | .dmaSlotCopy => 87#8 :: []
  | .dmaSlotM68k => 88#8 :: []
  | .dmaComplete => 89#8 :: []
  | .fifoPush x y z => 90#8 :: (putTarget x ++ putWord y ++ putWord z)
  | .fifoDrain => 91#8 :: []
  | .dmaStatus => 92#8 :: []
  | .dmaQslots x y => 93#8 :: (putHRes x ++ putPeriod y)
  | .dmaReadyedge => 94#8 :: []
  | .schTick => 95#8 :: []
  | .schNewframe => 96#8 :: []
  | .hostNewframe => 97#8 :: []
  | .hostReset => 98#8 :: []
  | .hostClose => 99#8 :: []

/-! ## Words as the opcode table numbers them -/

/-- The record that holds a table word of `nbits` bits: bit 0 of the word is the least significant bit of its first byte. -/
def tableRecord (nbits w : Nat) : List Byte :=
  match nbits with
  | 8 => [0xFA#8, BitVec.ofNat 8 w]
  | 16 => [0xF9#8, BitVec.ofNat 8 w, BitVec.ofNat 8 (w / 0x100)]
  | 24 => [0xF8#8, BitVec.ofNat 8 w, BitVec.ofNat 8 (w / 0x100), BitVec.ofNat 8 (w / 0x10000)]
  | _ => []

/-- The operation the decoder reads from a table word. -/
def decodeTableWord (nbits w : Nat) : Option Instr :=
  match decode (tableRecord nbits w) with
  | .ok i => some i
  | .error _ => none

end Sys2Proof
end

