-- ==== Sys2Proof/Machine/State.lean ====
section
/-! DEFINITION. The state of the block (R10 to R22), the model's own bookkeeping beside it, its reset value (R24, R311), and the
reasons a step can stop. -/

namespace Sys2Proof.Machine

/-- The event kinds of R286; `EventKind.code` (Flags.lean) gives the spec's code. -/
inductive EventKind where
  | reservedRead
  | reservedWrite
  | unmappedRead
  | unmappedWrite
  | coNoOwnership
  | unexpectedValue
  | unexpectedWrite
  | unexpectedRead
  | vdpInvalidRead
  | vdpUnexpectedPort
  | romWrite
  | overlayWriteProtected
  | tmssWrite
  | redeferral
  | vdpInvalidWrite
  deriving DecidableEq, Repr

/-- The recorded info of an event (R286). -/
inductive EventInfo where
  | addr (a : Addr)
  | addrVal (a : Addr) (val : Word)
  | count (n : Nat)
  deriving DecidableEq, Repr

/-- One entry of the log (R6). -/
structure Event where
  kind : EventKind
  info : EventInfo
  deriving DecidableEq, Repr

/-- A call across a collaborator interface (R23), with its arguments. -/
inductive Call where
  | readDataPort
  | readControl
  | getVCounter
  | getHCounter
  | writeVdpPortWord (port : Port) (w : Word)
  | vdpMemRead (target : VdpTarget) (addr : Word)
  | vdpMemWrite (target : VdpTarget) (addr : Word) (b : Byte)
  | vdpMemWriteWord (target : VdpTarget) (addr : Word) (w : Word)
  | ioRead (offset : Addr)
  | ioWrite (offset : Addr) (b : Byte)
  | coReset
  | mainStep
  | coStep
  | vdpSlot
  | soundTick (micros : Nat)
  | onNewFrame
  deriving DecidableEq, Repr

/-- A value an operation returns to its issuer: bus data (R100), a predicate (R257), a line level (R202), a number (R229, R251),
the status record (R228), the fatal error kind (R288), the battery-backed bytes handed over (R175). -/
inductive Reply where
  | data (v : BusDatum)
  | flag (b : Bool)
  | line (b : Bool)
  | count (n : Nat)
  | status (busyFlag fifoFull m2vBusy fifoEmpty : Bool)
  | error (kind : EventKind) (a : Addr)
  | sramImage (bytes : List Byte)
  | eepImage (bytes : List Byte)
  | noImage
  deriving DecidableEq, Repr

/-- `S.penalty` (R12). -/
structure Penalty where
  main : Nat
  co : Nat
  deriving DecidableEq, Repr

/-- One CPU's interrupt-pending record (R14). -/
structure Pending where
  v : Bool
  h : Bool
  deriving DecidableEq, Repr

/-- `S.mapper` (R18). -/
structure MapperState where
  variant : MapperVariant
  bankRegister : Nat
  overlayMode : OverlayMode
  deriving DecidableEq, Repr

/-- The protocol states of the EEPROM (R19). -/
inductive EepState where
  | standby
  | getWordAddress
  | write
  | read
  | waitStop
  deriving DecidableEq, Repr

/-- `S.eeprom` (R19). `bitCounter` is the cycle number; 0..9 by the invariant of R205. -/
structure EepromState where
  state : EepState
  clockLine : Bool
  dataLine : Bool
  previousClockLine : Bool
  previousDataLine : Bool
  bitCounter : Nat
  addressRegister : BitVec 7
  writeBuffer : Byte
  readWriteFlag : Bool
  deriving DecidableEq, Repr

/-- The transfer modes (R20). -/
inductive DmaMode where
  | none
  | fill
  | copy
  | m68kToVram
  deriving DecidableEq, Repr

/-- A FIFO entry (R20). -/
structure FifoEntry where
  target : VdpTarget
  addr : Word
  data : Word
  deriving DecidableEq, Repr

/-- `S.dma` (R20). `slotPhase` false is 0, true is 1. -/
structure DmaState where
  mode : DmaMode
  lengthCounter : Nat
  sourceAddress : Addr
  destinationAddress : Word
  fifoQueue : List FifoEntry
  busyFlag : Bool
  target : VdpTarget
  autoInc : Byte
  fillValue : Byte
  slotPhase : Bool
  copyLatch : Byte
  deriving DecidableEq, Repr

/-- `S.sched` (R21). -/
structure SchedState where
  masterTick : Nat
  nextMain : Nat
  nextCo : Nat
  nextVdp : Nat
  nextAudio : Nat
  deriving DecidableEq, Repr

/-- The model's own: the collaborator answers still to come, one list per interface (R23, U5; log entry 8). -/
structure Inputs where
  dataPort : List Word
  control : List Word
  vCounter : List Byte
  hCounter : List Byte
  ioRead : List Byte
  vdpMem : List Byte
  port : List PortAnswer
  mainUnits : List MainUnit
  coUnits : List CoUnit
  vdpUnits : List VdpUnit
  audioUnits : List AudioUnit
  deriving DecidableEq, Repr

/-- The whole state: the fields of R11 to R22, then the session parameters (log entry 3), then the model's own bookkeeping
(log entries 1, 5, 8, 10, 14). -/
structure State where
  coCpuBusRequested : Bool
  coCpuResetAsserted : Bool
  penalty : Penalty
  deferredQueue : List DeferredWrite
  vdpVLine : Bool
  vdpHLine : Bool
  pendingMain : Pending
  pendingCo : Pending
  mainCpuFrozen : Bool
  fatal : Option (EventKind × Addr)
  logicError : Bool
  log : List Event
  ram : Memory
  comem : Memory
  sram : Memory
  eep : Memory
  mapper : MapperState
  eeprom : EepromState
  dma : DmaState
  sched : SchedState
  memoryMode : Word
  tmssLatch : Word
  cfg : BusConfig
  inbox : List (List Byte)
  inputs : Inputs
  draws : Nat
  epoch : Nat
  closed : Bool
  calls : List Call
  replies : List Reply
  deriving DecidableEq, Repr

/-- Why the machine stops with a fault. -/
inductive Fault where
  /-- SRAM.DEV was presented with an address whose index `a - OVERLAY_LO` is outside `sram[0 .. SRAM_SIZE-1]` (R17, R171): the
  byte does not exist. Raised by `execSramDev` only; a bus access never reaches it, since R168 and R169 test InOverlay first.
  Safe: the spec gives such an access no effect. -/
  | sramIndexOutside
  deriving DecidableEq, Repr

/-- Why the machine gives an operation no meaning. -/
inductive Refusal where
  /-- an arm of `exec` that has no meaning yet; safe -/
  | notModelled (mnemonic : String)
  /-- the record presented is no operation; raised by `fetch`; safe -/
  | undecodable (reason : Reject)
  /-- the state or a parameter does not select the row presented (its region, register, port, value, variant, line tuple or
  transfer mode is another), so the operation is not that row's; raised by the meanings of the selected rows; safe -/
  | rowNotSelected
  /-- DMA.START with length 0 or while a transfer is active, presented or started by the VDP inside a forwarded port write:
  "refused: no rule gives it a meaning" (R221, U14); safe -/
  | dmaStartUndefined
  /-- FIFO.PUSH on a full FIFO (R226, U17); safe -/
  | fifoFull
  /-- an operation of the SRAM or EEPROM device of a cartridge that has none (R17, R19: "present iff"); safe -/
  | deviceAbsent
  /-- any operation but HOST.RESET and HOST.CLOSE after a fatal error (R289, U18); raised by `fetch`; safe -/
  | sessionFatal
  /-- any operation after HOST.CLOSE or MAP.CLOSE (R313, R175, U18); raised by `fetch`; safe -/
  | sessionClosed
  deriving DecidableEq, Repr

/-- `S.eeprom` at reset (R24): STANDBY from the source, the rest DESIGN CHOICE of the spec (log entry 4). -/
def EepromState.reset : EepromState where
  state := .standby
  clockLine := false
  dataLine := false
  previousClockLine := false
  previousDataLine := false
  bitCounter := 0
  addressRegister := 0#7
  writeBuffer := 0#8
  readWriteFlag := false

/-- `S.dma` at reset (R24). -/
def DmaState.reset : DmaState where
  mode := .none
  lengthCounter := 0
  sourceAddress := 0#24
  destinationAddress := 0#16
  fifoQueue := []
  busyFlag := false
  target := .vram
  autoInc := 0#8
  fillValue := 0#8
  slotPhase := false
  copyLatch := 0#8

/-- `S.mapper` at reset and at session creation (R24, R173). The quotient is rounded down where the window base is no multiple of
the page size, which R24 leaves open: DESIGN CHOICE (log entry 40). -/
def MapperState.reset (cfg : BusConfig) : MapperState where
  variant := if cfg.overlay.isSome then .battery else .linear
  bankRegister := cfg.bankWindowBase / cfg.pageSize
  overlayMode :=
    match cfg.overlay with
    | none => .disabled
    | some o => o.resetMode

/-- No collaborator answer is laid down. -/
def Inputs.empty : Inputs :=
  { dataPort := [], control := [], vCounter := [], hCounter := [], ioRead := [], vdpMem := [], port := [], mainUnits := [],
    coUnits := [], vdpUnits := [], audioUnits := [] }

/-- The state right after a session is created from one BusConfig (R311, R24). -/
def State.create (cfg : BusConfig) : State where
  coCpuBusRequested := false
  coCpuResetAsserted := true
  penalty := ⟨0, 0⟩
  deferredQueue := []
  vdpVLine := false
  vdpHLine := false
  pendingMain := ⟨false, false⟩
  pendingCo := ⟨false, false⟩
  mainCpuFrozen := false
  fatal := none
  logicError := false
  log := []
  ram := []
  comem := []
  sram := []
  eep := []
  mapper := MapperState.reset cfg
  eeprom := EepromState.reset
  dma := DmaState.reset
  sched := ⟨0, 0, 0, 0, 0⟩
  memoryMode := 0#16
  tmssLatch := 0#16
  cfg := cfg
  inbox := []
  inputs := Inputs.empty
  draws := 0
  epoch := 0
  closed := false
  calls := []
  replies := []

/-- The machine right after reset (R24, R310), for the session parameters of log entry 3. -/
def State.reset : State := State.create Config.session

end Sys2Proof.Machine
end

