-- ==== Sys2Proof/Machine/Operands.lean ====
section
/-! DEFINITION. Operand assembly (R72), address arithmetic (R41, R59) and the selecting decodes: the region map R73, the REG
sub-decode R74, the VDP sub-decode R75, the EEPROM line events R78. -/

namespace Sys2Proof

/-! ## A datum and its readings -/

/-- A handler's datum as a bus datum. -/
def Datum.toBus : Datum → BusDatum
  | .byte v => .byte v
  | .word v => .word v

/-- `zext_16(data)` for BYTE, `data` for WORD (R148): the value presented to a control register. -/
def Datum.zext16 : Datum → Word
  | .byte v => v.setWidth 16
  | .word v => v

/-- The word a VDP port write forwards: a BYTE mirrored into both halves (R115). -/
def Datum.mirrored : Datum → Word
  | .byte v => v ++ v
  | .word w => w

/-- `dataLine` of a value written to the EEPROM overlay: bit 0 (R72, R172). -/
def Datum.lineData (d : Datum) : Bool := (d.zext16).getLsbD 0

/-- `clockLine` of a value written to the EEPROM overlay: bit 1 (R72, R172). -/
def Datum.lineClock (d : Datum) : Bool := (d.zext16).getLsbD 1

end Sys2Proof

namespace Sys2Proof.Machine

/-! ## Addresses -/

/-- `mask24` (R41). -/
def mask24 (addr : BitVec 32) : Addr := addr.setWidth 24

/-- `a & 0xFFFFFE`: both byte lanes of a 16-bit register (R74). -/
def regBase (a : Addr) : Addr := a &&& 0xFFFFFE#24

/-- The port offset `a & 0x1F` (R75). -/
def portOffset (a : Addr) : Addr := a &&& 0x1F#24

/-- The index of an address in the 64 KiB RAM (R48). -/
def ramIndex (a : Addr) : Nat := (a &&& 0xFFFF#24).toNat

/-- The index after it, for the low byte of a WORD (R104). -/
def ramIndexNext (a : Addr) : Nat := (((a &&& 0xFFFF#24) + 1#24) &&& 0xFFFF#24).toNat

/-- The index of an address in the co-CPU memory (R108). -/
def comemIndex (cfg : BusConfig) (a : Addr) : Nat := (a &&& cfg.comemMask).toNat

/-! ## Data -/

/-- `Ones(n)` at a handler's size. -/
def ones : Width → Datum
  | .byte => .byte 0xFF#8
  | .word => .word 0xFFFF#16

/-- `Ones(n)` at a bus size (R100). -/
def busOnes : Size → BusDatum
  | .byte => .byte 0xFF#8
  | .word => .word 0xFFFF#16
  | .long => .long 0xFFFFFFFF#32

/-- Zero of 8n bits (R108). -/
def zeros : Width → Datum
  | .byte => .byte 0#8
  | .word => .word 0#16

/-- `{hi, lo}`: the WORD of two bytes, the byte at the lower address first (R42). -/
def wordOf (hi lo : Byte) : Word := hi ++ lo

/-- Bits 15:8 of a word. -/
def highByte (w : Word) : Byte := w.extractLsb' 8 8

/-- Bits 7:0 of a word. -/
def lowByte (w : Word) : Byte := w.extractLsb' 0 8

/-- Bits 31:16 of a LONG: the first WORD operation (R43). -/
def highWord (v : Long) : Word := v.extractLsb' 16 16

/-- Bits 15:0 of a LONG: the second WORD operation (R43). -/
def lowWord (v : Long) : Word := v.extractLsb' 0 16

/-- `{first, second}`: what a LONG read returns (R43). -/
def joinLong (first second : Datum) : BusDatum := .long (first.zext16 ++ second.zext16)

/-- A WORD as seen by an access of this size at this address: all of it, or its even or odd byte (R72, R114, R146). -/
def lane (n : Width) (a : Addr) (w : Word) : Datum :=
  match n with
  | .word => .word w
  | .byte => if a.getLsbD 0 then .byte (lowByte w) else .byte (highByte w)

/-- The output level in bit 0 of the value read from the EEPROM overlay (R72, R172). -/
def lineDatum (n : Width) (b : Bool) : Datum :=
  match n with
  | .byte => .byte (if b then 1#8 else 0#8)
  | .word => .word (if b then 1#16 else 0#16)

/-- The COPY source after one byte: its low 16 bits step and wrap, its high 8 bits stay (R223). -/
def copySourceNext (a : Addr) : Addr := a.extractLsb' 16 8 ++ (a.extractLsb' 0 16 + 1#16 : Word)

/-- The transfer mode DMA.START sets (R221). -/
def modeOf : DmaKind → DmaMode
  | .fill => .fill
  | .copy => .copy
  | .m68kToVram => .m68kToVram

/-- The overlay mode a control value selects, from `e = val[0]` and `p = val[1]` (R170). -/
def overlayModeOf (val : Word) : OverlayMode :=
  if val.getLsbD 0 then (if val.getLsbD 1 then .readOnly else .readWrite) else .disabled

/-- `bank = val & BANK_VALUE_MASK` (R72, R164, R167). -/
def bankOf (cfg : BusConfig) (val : Word) : Nat := (val &&& cfg.bankValueMask).toNat

/-! ## The selecting decodes -/

/-- `Region(a)` (R73), first match wins; `variant` is the state the override reads (R82). -/
def regionOf (cfg : BusConfig) (variant : MapperVariant) (a : Addr) : Region :=
  if a ≤ cfg.romEnd then .cart
  else if variant = .battery ∧ cfg.inOverlay a then .cart
  else if 0xE00000#24 ≤ a ∧ a ≤ 0xFFFFFF#24 then .ram
  else if cfg.romEnd < a ∧ a < 0xA00000#24 then .reserved
  else if 0xA00000#24 ≤ a ∧ a ≤ 0xA0FFFF#24 then .coCpu
  else if 0xA10000#24 ≤ a ∧ a ≤ 0xA1001F#24 then .io
  else if 0xA11000#24 ≤ a ∧ a ≤ 0xA130FF#24 then .reg
  else if 0xC00000#24 ≤ a ∧ a ≤ cfg.vdpWinHi then .vdp
  else .unmapped

/-- The REG sub-decode (R74), in the order of its table. -/
def regSelOf (cfg : BusConfig) (a : Addr) : RegSel :=
  if regBase a = cfg.addrMemmode then .memmode
  else if regBase a = cfg.addrBusreq then .busreq
  else if regBase a = cfg.addrCoreset then .coreset
  else if cfg.bankselLo ≤ a ∧ a ≤ cfg.bankselHi then .banksel
  else if some (regBase a) = cfg.addrTmss then .tmss
  else .other

/-- `VdpValid(a)` (R75). -/
def vdpValid (cfg : BusConfig) (a : Addr) : Bool := a &&& cfg.vdpValidMask == cfg.vdpValidMatch

/-- The port an address of the VDP window selects by its offset (R75). -/
def vdpOffsetOf (a : Addr) : VdpOffset :=
  if portOffset a < 0x04#24 then .data
  else if portOffset a < 0x08#24 then .control
  else if portOffset a < 0x0F#24 then .hv
  else .unexpected

/-- The line events (R78). -/
inductive LineEvent where
  | start
  | stop
  | rise
  | fall
  | none
  deriving DecidableEq, Repr

/-- The event of a tuple `pc pd c d` (R78). -/
def lineEventOf (pc pd c d : Bool) : LineEvent :=
  match pc, pd, c, d with
  | true, true, true, false => .start
  | true, false, true, true => .stop
  | false, _, true, _ => .rise
  | true, _, false, _ => .fall
  | _, _, _, _ => .none

end Sys2Proof.Machine
end

