-- ==== Sys2Proof/Machine/Flags.lean ====
section
/-! DEFINITION. The flags and predicates the state shows (R11, R27, R257, R276, R293), the slot figures and costs (R229, R230), and
the codes of the event kinds (R286). -/

namespace Sys2Proof.Machine

/-- `CoAccess(S)` (R11). -/
def State.coAccess (s : State) : Bool := s.coCpuBusRequested && !s.coCpuResetAsserted

/-- `FifoFull(S)` (R27). -/
def State.fifoFull (s : State) : Bool := s.dma.fifoQueue.length == s.cfg.fifoCapacity

/-- `M2vBusy(S)` (R27). -/
def State.m2vBusy (s : State) : Bool := s.dma.mode == .m68kToVram

/-- `VdpReady(S)` (R27). -/
def State.vdpReady (s : State) : Bool := !s.fifoFull && !s.m2vBusy

/-- `isMainCpuRunning()` (R257). -/
def State.mainRunning (s : State) : Bool := !s.mainCpuFrozen

/-- `Runnable(CO)` (R276). -/
def State.coRunnable (s : State) : Bool := !s.coCpuResetAsserted && !s.coCpuBusRequested

/-- The level presented to the main CPU (R293). -/
def State.mainIrqLevel (s : State) : Nat :=
  if s.pendingMain.v then s.cfg.vintLevel else if s.pendingMain.h then s.cfg.hintLevel else 0

/-- The request presented to the co-CPU (R293). -/
def State.coIrqRequest (s : State) : Bool := s.pendingCo.v || s.pendingCo.h

/-- The bus-request register as read (R146): bit 8 set when the main CPU does not have access. -/
def State.busreqWord (s : State) : Word := if s.coAccess then 0x0000#16 else 0x0100#16

/-- The pending record of a CPU (R14). -/
def State.pendingOf (s : State) : Cpu → Pending
  | .main => s.pendingMain
  | .co => s.pendingCo

/-- The accumulated penalty of a CPU (R12). -/
def State.penaltyOf (s : State) : Cpu → Nat
  | .main => s.penalty.main
  | .co => s.penalty.co

/-- `SLOT_BUDGET[res][period]` (R229). -/
def slotBudget (cfg : BusConfig) : HRes → Period → Nat
  | .h32, .active => cfg.slots.h32Active
  | .h32, .blank => cfg.slots.h32Blank
  | .h40, .active => cfg.slots.h40Active
  | .h40, .blank => cfg.slots.h40Blank

/-- `SlotCost(mode, target)` per unit (R230). -/
def slotCost : DmaKind → VdpTarget → Nat
  | .fill, _ => 1
  | .copy, _ => 2
  | .m68kToVram, .vram => 2
  | .m68kToVram, .cram => 1
  | .m68kToVram, .vsram => 1

/-- The four classes of R285. -/
inductive EventClass where
  | recoverable
  | informational
  | logicError
  | fatal
  deriving DecidableEq, Repr

/-- The codes of R286. -/
def EventKind.code : EventKind → Nat
  | .reservedRead => 1
  | .reservedWrite => 2
  | .unmappedRead => 3
  | .unmappedWrite => 4
  | .coNoOwnership => 5
  | .unexpectedValue => 6
  | .unexpectedWrite => 7
  | .unexpectedRead => 8
  | .vdpInvalidRead => 9
  | .vdpUnexpectedPort => 10
  | .romWrite => 11
  | .overlayWriteProtected => 12
  | .tmssWrite => 13
  | .redeferral => 14
  | .vdpInvalidWrite => 15

/-- The classes of R286. -/
def EventKind.eventClass : EventKind → EventClass
  | .reservedRead => .recoverable
  | .reservedWrite => .recoverable
  | .unmappedRead => .recoverable
  | .unmappedWrite => .recoverable
  | .coNoOwnership => .recoverable
  | .unexpectedValue => .recoverable
  | .unexpectedWrite => .recoverable
  | .unexpectedRead => .recoverable
  | .vdpInvalidRead => .recoverable
  | .vdpUnexpectedPort => .recoverable
  | .romWrite => .recoverable
  | .overlayWriteProtected => .recoverable
  | .tmssWrite => .informational
  | .redeferral => .logicError
  | .vdpInvalidWrite => .fatal

end Sys2Proof.Machine
end

