-- ==== Sys2Proof/Machine/Ops.lean ====
section
/-! DEFINITION. The operations every family shares: the byte stores and their reads, the log, the collaborator calls and answers,
the replies, the penalties and the deferred queue, raising the fatal error (the block's one exception, R288), latching and
acknowledging interrupts (R255, R256, R260), and how a meaning ends. -/

namespace Sys2Proof

/-! ## Byte stores

The canonical form: indices strictly rising. A byte that is not listed was never written, so no entry can equal what an unlisted
index reads as. -/

/-- The byte listed at an index, if any. -/
def Memory.read? : Memory → Nat → Option Byte
  | [], _ => none
  | (i, b) :: m, k => if i = k then some b else Memory.read? m k

/-- Store one byte, keeping the canonical form. -/
def Memory.write : Memory → Nat → Byte → Memory
  | [], k, v => [(k, v)]
  | (i, b) :: m, k, v =>
    if k < i then (k, v) :: (i, b) :: m
    else if k = i then (k, v) :: m
    else (i, b) :: Memory.write m k v

/-- The canonical form. -/
abbrev Memory.wf (m : Memory) : Prop := m.Pairwise (fun x y => x.1 < y.1)

/-- Every listed index is below a size (R17). -/
abbrev Memory.below (m : Memory) (n : Nat) : Prop := ∀ c ∈ m, c.1 < n

/-- `rom[i]`: the image, and a free value where it lists nothing (log entry 7). -/
def BusConfig.romByte (cfg : BusConfig) (i : Nat) : Byte := (cfg.rom.read? i).getD (Config.romUnlisted i)

end Sys2Proof

namespace Sys2Proof.Machine

/-- How an operation that may be refused ends. -/
def ofExcept : Except Refusal State → Host.Outcome State Fault Refusal
  | .ok s => .next s
  | .error r => .refused r

/-- A row whose selecting condition does not hold is not the operation presented (log entry 12). -/
def whenSelected (c : Bool) (k : Host.Outcome State Fault Refusal) : Host.Outcome State Fault Refusal :=
  if c then k else .refused .rowNotSelected

/-! ## The stores of R17 -/

/-- `ram[i]`; a byte never written is a free value of the reset epoch (U1, log entry 5). -/
def State.ramByte (s : State) (i : Nat) : Byte := (s.ram.read? i).getD (Config.ramUnwritten s.epoch i)

/-- `comem[i]` (U2, log entry 5). -/
def State.comemByte (s : State) (i : Nat) : Byte := (s.comem.read? i).getD (Config.comemUnwritten s.epoch i)

/-- `sram[i]` (U3, log entry 6). -/
def State.sramByte (s : State) (i : Nat) : Byte := (s.sram.read? i).getD (Config.sramImage i)

/-- `eep[i]` (U3, log entry 6). -/
def State.eepByte (s : State) (i : Nat) : Byte := (s.eep.read? i).getD (Config.eepImage i)

/-! ## Log, calls, replies -/

/-- `log(kind, info)` (R6). -/
def State.addLog (s : State) (kind : EventKind) (info : EventInfo) : State := { s with log := s.log ++ [⟨kind, info⟩] }

/-- A collaborator call without an answer (R23). -/
def State.addCall (s : State) (c : Call) : State := { s with calls := s.calls ++ [c] }

/-- A value returned to the issuer of the operation. -/
def State.addReply (s : State) (r : Reply) : State := { s with replies := s.replies ++ [r] }

/-- A collaborator call with an answer: the call is recorded, the answer is used up, the draw counter advances. -/
def State.ask (s : State) (c : Call) (rest : Inputs) : State :=
  { s with calls := s.calls ++ [c], inputs := rest, draws := s.draws + 1 }

/-- A read of the bus ends with its datum returned. -/
def answered (r : State × Datum) : Host.Outcome State Fault Refusal := .next (r.1.addReply (.data r.2.toBus))

/-! ## Collaborator answers (R23, U5): the next one laid down, or a free value -/

/-- `Vdp.readDataPort()`. -/
def State.dataPortAnswer (s : State) : Word := s.inputs.dataPort.headD (Config.freeDataPort s.draws)

/-- `Vdp.readControl()`. -/
def State.controlAnswer (s : State) : Word := s.inputs.control.headD (Config.freeControl s.draws)

/-- `Vdp.getVCounter()`. -/
def State.vCounterAnswer (s : State) : Byte := s.inputs.vCounter.headD (Config.freeVCounter s.draws)

/-- `Vdp.getHCounter()`. -/
def State.hCounterAnswer (s : State) : Byte := s.inputs.hCounter.headD (Config.freeHCounter s.draws)

/-- `Io.read(o)`. -/
def State.ioAnswer (s : State) : Byte := s.inputs.ioRead.headD (Config.freeIoRead s.draws)

/-- `VdpMemRead(target, addr)`. -/
def State.vdpMemAnswer (s : State) : Byte := s.inputs.vdpMem.headD (Config.freeVdpMem s.draws)

/-- What the VDP does with a forwarded port word. -/
def State.portAnswer (s : State) : PortAnswer := s.inputs.port.headD (Config.freePortAnswer s.draws)

/-- The main CPU's next instruction. -/
def State.mainUnit (s : State) : MainUnit := s.inputs.mainUnits.headD (Config.freeMainUnit s.draws)

/-- The co-CPU's next instruction. -/
def State.coUnit (s : State) : CoUnit := s.inputs.coUnits.headD (Config.freeCoUnit s.draws)

/-- The VDP's next slot. -/
def State.vdpUnit (s : State) : VdpUnit := s.inputs.vdpUnits.headD (Config.freeVdpUnit s.draws)

/-- The audio generator's next tick. -/
def State.audioUnit (s : State) : AudioUnit := s.inputs.audioUnits.headD (Config.freeAudioUnit s.draws)

/-- Ask for the data port. -/
def State.askDataPort (s : State) : State :=
  s.ask .readDataPort { s.inputs with dataPort := s.inputs.dataPort.tail }

/-- Ask for the control port. -/
def State.askControl (s : State) : State :=
  s.ask .readControl { s.inputs with control := s.inputs.control.tail }

/-- Ask for the V counter. -/
def State.askVCounter (s : State) : State :=
  s.ask .getVCounter { s.inputs with vCounter := s.inputs.vCounter.tail }

/-- Ask for the H counter. -/
def State.askHCounter (s : State) : State :=
  s.ask .getHCounter { s.inputs with hCounter := s.inputs.hCounter.tail }

/-- Ask the IO collaborator for an offset. -/
def State.askIo (s : State) (o : Addr) : State :=
  s.ask (.ioRead o) { s.inputs with ioRead := s.inputs.ioRead.tail }

/-- Ask for a byte of a VDP memory. -/
def State.askVdpMem (s : State) (t : VdpTarget) (a : Word) : State :=
  s.ask (.vdpMemRead t a) { s.inputs with vdpMem := s.inputs.vdpMem.tail }

/-- Hand a word to a VDP port. -/
def State.askPort (s : State) (p : Port) (w : Word) : State :=
  s.ask (.writeVdpPortWord p w) { s.inputs with port := s.inputs.port.tail }

/-- Start the main CPU's unit of work. -/
def State.askMainUnit (s : State) : State :=
  s.ask .mainStep { s.inputs with mainUnits := s.inputs.mainUnits.tail }

/-- Start the co-CPU's unit of work. -/
def State.askCoUnit (s : State) : State :=
  s.ask .coStep { s.inputs with coUnits := s.inputs.coUnits.tail }

/-- Start the VDP's unit of work. -/
def State.askVdpUnit (s : State) : State :=
  s.ask .vdpSlot { s.inputs with vdpUnits := s.inputs.vdpUnits.tail }

/-- Perform the audio generator's unit of work. -/
def State.askAudioUnit (s : State) : State :=
  s.ask (.soundTick s.audioUnit.micros) { s.inputs with audioUnits := s.inputs.audioUnits.tail }

/-! ## Arbiter bookkeeping -/

/-- `ARB.PEN(cpu, cycles)` (R250). -/
def State.addPenalty (s : State) (cpu : Cpu) (cycles : Nat) : State :=
  match cpu with
  | .main => { s with penalty := { s.penalty with main := s.penalty.main + cycles } }
  | .co => { s with penalty := { s.penalty with co := s.penalty.co + cycles } }

/-- The zeroing of `ARB.TAKEPEN(cpu)` (R251); the value taken is `State.penaltyOf`. -/
def State.clearPenalty (s : State) (cpu : Cpu) : State :=
  match cpu with
  | .main => { s with penalty := { s.penalty with main := 0 } }
  | .co => { s with penalty := { s.penalty with co := 0 } }

/-- `ARB.DEFER(e)` (R252). -/
def State.defer (s : State) (e : DeferredWrite) : State := { s with deferredQueue := s.deferredQueue ++ [e] }

/-! ## The exceptional events -/

/-- `raise Fatal(kind, a)` (R288), the one exception of the block: the error kind and address are saved, nothing else of the
operation is performed, nothing is logged, and the issuer gets the kind. What may follow is tested by `fetch` (R289). -/
def State.raiseFatal (s : State) (kind : EventKind) (a : Addr) : State :=
  { s with fatal := some (kind, a) }.addReply (.error kind a)

/-- `ARB.IRQ.MAIN` (R255): the lines are latched into the main CPU's record, and stay. -/
def State.latchMain (s : State) : State :=
  { s with pendingMain := ⟨s.pendingMain.v || s.vdpVLine, s.pendingMain.h || s.vdpHLine⟩ }

/-- `ARB.IRQ.CO` (R256). -/
def State.latchCo (s : State) : State :=
  { s with pendingCo := ⟨s.pendingCo.v || s.vdpVLine, s.pendingCo.h || s.vdpHLine⟩ }

/-- One bit of a pending record cleared (R260). -/
def Pending.clear (p : Pending) : Irq → Pending
  | .v => { p with v := false }
  | .h => { p with h := false }

/-- `CPU.IACK(cpu, which)` (R260): the record, not the lines. -/
def State.iack (s : State) (cpu : Cpu) (which : Irq) : State :=
  match cpu with
  | .main => { s with pendingMain := s.pendingMain.clear which }
  | .co => { s with pendingCo := s.pendingCo.clear which }

/-- `VDP.SETLINES(v, h)` (R259). -/
def State.setLines (s : State) (v h : Bool) : State := { s with vdpVLine := v, vdpHLine := h }

/-- `ARB.FREEZE(b)` (R258). -/
def State.freeze (s : State) (b : Bool) : State := { s with mainCpuFrozen := b }

end Sys2Proof.Machine
end

