-- ==== Sys2Proof/Machine/Eeprom.lean ====
section
/-! DEFINITION. SerialEepromDevice (R190 to R205): the line sample, its events, the output, and the rows of Format E with EEP.STEP
and EEP.OUT. -/

namespace Sys2Proof.Machine

/-- The shift of R191: the latest sample becomes the previous one. -/
def State.sampleLines (s : State) (c d : Bool) : State :=
  { s with eeprom :=
      { s.eeprom with
        previousClockLine := s.eeprom.clockLine
        previousDataLine := s.eeprom.dataLine
        clockLine := c
        dataLine := d } }

/-- START (R192), in any state. -/
def State.lineStart (s : State) : State :=
  { s with eeprom := { s.eeprom with state := .getWordAddress, bitCounter := 0, writeBuffer := 0#8 } }

/-- STOP (R193), in any state. -/
def State.lineStop (s : State) : State :=
  { s with eeprom := { s.eeprom with state := .standby, bitCounter := 0, writeBuffer := 0#8 } }

/-- `ar[7 - bc] <- d` (R195). -/
def setAddressBit (ar : BitVec 7) (bc : Nat) (d : Bool) : BitVec 7 :=
  (ar &&& ~~~(1#7 <<< (7 - bc))) ||| ((if d then 1#7 else 0#7) <<< (7 - bc))

/-- GWA.RISE (R195); the bit latched is the sample's data line. -/
def State.gwaRise (s : State) : State :=
  let e := s.eeprom
  if e.bitCounter < 9 then
    let bc := e.bitCounter + 1
    if bc ≤ 7 then
      { s with eeprom := { e with bitCounter := bc, addressRegister := setAddressBit e.addressRegister bc e.dataLine } }
    else if bc = 8 then { s with eeprom := { e with bitCounter := bc, readWriteFlag := e.dataLine } }
    else { s with eeprom := { e with bitCounter := bc } }
  else s

/-- GWA.FALL (R196). -/
def State.gwaFall (s : State) : State :=
  let e := s.eeprom
  if e.bitCounter = 9 then
    { s with eeprom :=
        { e with state := if e.readWriteFlag then .read else .write, bitCounter := 0, writeBuffer := 0#8 } }
  else s

/-- `((wb << 1) | d) & 0xFF` (R197). -/
def shiftIn (wb : Byte) (d : Bool) : Byte := (wb <<< 1) ||| (if d then 1#8 else 0#8)

/-- WRITE.RISE (R197). -/
def State.writeRise (s : State) : State :=
  let e := s.eeprom
  if e.bitCounter < 9 then
    if e.bitCounter + 1 ≤ 8 then
      { s with eeprom := { e with bitCounter := e.bitCounter + 1, writeBuffer := shiftIn e.writeBuffer e.dataLine } }
    else { s with eeprom := { e with bitCounter := e.bitCounter + 1 } }
  else s

/-- `ar mod N`: the storage index (R198, R202, R205). -/
def State.eepIndex (s : State) : Nat := s.eeprom.addressRegister.toNat % s.cfg.eepromSize

/-- `(ar + 1) mod N` (R198, R200). -/
def State.eepNextAddress (s : State) : BitVec 7 :=
  BitVec.ofNat 7 ((s.eeprom.addressRegister.toNat + 1) % s.cfg.eepromSize)

/-- WRITE.FALL (R198): the byte is stored at the edge that ends the acknowledge cycle. -/
def State.writeFall (s : State) : State :=
  let e := s.eeprom
  if e.bitCounter = 9 then
    { s with
      eep := s.eep.write s.eepIndex e.writeBuffer
      eeprom := { e with addressRegister := s.eepNextAddress, bitCounter := 0, writeBuffer := 0#8 } }
  else s

/-- READ.RISE (R199). -/
def State.readRise (s : State) : State :=
  let e := s.eeprom
  if e.bitCounter < 9 then { s with eeprom := { e with bitCounter := e.bitCounter + 1 } } else s

/-- READ.FALL (R200): the acknowledge bit is `previousDataLine`. -/
def State.readFall (s : State) : State :=
  let e := s.eeprom
  if e.bitCounter = 9 then
    if e.previousDataLine then { s with eeprom := { e with state := .waitStop, bitCounter := 0 } }
    else { s with eeprom := { e with addressRegister := s.eepNextAddress, bitCounter := 0 } }
  else s

/-- What an event does to a state whose lines are already shifted (R191, R194, R201, R203). -/
def State.lineEvent (s : State) : LineEvent → State
  | .start => s.lineStart
  | .stop => s.lineStop
  | .rise =>
    match s.eeprom.state with
    | .standby => s
    | .getWordAddress => s.gwaRise
    | .write => s.writeRise
    | .read => s.readRise
    | .waitStop => s
  | .fall =>
    match s.eeprom.state with
    | .standby => s
    | .getWordAddress => s.gwaFall
    | .write => s.writeFall
    | .read => s.readFall
    | .waitStop => s
  | .none => s

/-- `EEP.STEP(clock, data)` (R191): exactly one event a sample. -/
def State.eepStep (s : State) (clock data : Bool) : State :=
  (s.sampleLines clock data).lineEvent (lineEventOf s.eeprom.clockLine s.eeprom.dataLine clock data)

/-- `EEP.OUT()` (R202). -/
def State.eepOut (s : State) : Bool :=
  let e := s.eeprom
  if e.state = .read ∧ 1 ≤ e.bitCounter ∧ e.bitCounter ≤ 8 then (s.eepByte s.eepIndex).getLsbD (8 - e.bitCounter)
  else if (e.state = .read ∨ e.state = .write) ∧ e.bitCounter = 9 then false
  else if e.state = .getWordAddress ∧ e.bitCounter = 9 ∧ s.cfg.eepromAddrAckZero then false
  else e.dataLine

/-! ## The rows -/

/-- A row of Format E: the tuple `pc pd c d` it names is the one this sample makes, and the device exists. -/
def State.lineRow (s : State) (pc pd c d : Bool) (inState : Bool) (effect : State → State) :
    Host.Outcome State Fault Refusal :=
  if s.cfg.hasEeprom then
    whenSelected (s.eeprom.clockLine == pc && s.eeprom.dataLine == pd && inState) (.next (effect (s.sampleLines c d)))
  else .refused .deviceAbsent

/-- EEP.START, tuple 1110 (R192). -/
def execEepStart (s : State) : Host.Outcome State Fault Refusal :=
  s.lineRow true true true false true State.lineStart

/-- EEP.STOP, tuple 1011 (R193). -/
def execEepStop (s : State) : Host.Outcome State Fault Refusal :=
  s.lineRow true false true true true State.lineStop

/-- STANDBY.RISE, tuple 0x1x: only the lines change (R194). -/
def execStandbyRise (pd d : Bool) (s : State) : Host.Outcome State Fault Refusal :=
  s.lineRow false pd true d (s.eeprom.state == .standby) (fun t => t)

/-- STANDBY.FALL, tuple 1x0x: only the lines change (R194). -/
def execStandbyFall (pd d : Bool) (s : State) : Host.Outcome State Fault Refusal :=
  s.lineRow true pd false d (s.eeprom.state == .standby) (fun t => t)

/-- GWA.RISE (R195). -/
def execGwaRise (pd d : Bool) (s : State) : Host.Outcome State Fault Refusal :=
  s.lineRow false pd true d (s.eeprom.state == .getWordAddress) State.gwaRise

/-- GWA.FALL (R196). -/
def execGwaFall (pd d : Bool) (s : State) : Host.Outcome State Fault Refusal :=
  s.lineRow true pd false d (s.eeprom.state == .getWordAddress) State.gwaFall

/-- WRITE.RISE (R197). -/
def execWriteRise (pd d : Bool) (s : State) : Host.Outcome State Fault Refusal :=
  s.lineRow false pd true d (s.eeprom.state == .write) State.writeRise

/-- WRITE.FALL (R198). -/
def execWriteFall (pd d : Bool) (s : State) : Host.Outcome State Fault Refusal :=
  s.lineRow true pd false d (s.eeprom.state == .write) State.writeFall

/-- READ.RISE (R199). -/
def execReadRise (pd d : Bool) (s : State) : Host.Outcome State Fault Refusal :=
  s.lineRow false pd true d (s.eeprom.state == .read) State.readRise

/-- READ.FALL (R200). -/
def execReadFall (pd d : Bool) (s : State) : Host.Outcome State Fault Refusal :=
  s.lineRow true pd false d (s.eeprom.state == .read) State.readFall

/-- WAIT_STOP.RISE: only the lines change (R201). -/
def execWaitStopRise (pd d : Bool) (s : State) : Host.Outcome State Fault Refusal :=
  s.lineRow false pd true d (s.eeprom.state == .waitStop) (fun t => t)

/-- WAIT_STOP.FALL: only the lines change (R201). -/
def execWaitStopFall (pd d : Bool) (s : State) : Host.Outcome State Fault Refusal :=
  s.lineRow true pd false d (s.eeprom.state == .waitStop) (fun t => t)

/-- EEP.NONE.LOW, tuple 0x0x (R203). -/
def execEepNoneLow (pd d : Bool) (s : State) : Host.Outcome State Fault Refusal :=
  s.lineRow false pd false d true (fun t => t)

/-- EEP.NONE.HIGH0, tuple 1010 (R203). -/
def execEepNoneHigh0 (s : State) : Host.Outcome State Fault Refusal :=
  s.lineRow true false true false true (fun t => t)

/-- EEP.NONE.HIGH1, tuple 1111 (R203). -/
def execEepNoneHigh1 (s : State) : Host.Outcome State Fault Refusal :=
  s.lineRow true true true true true (fun t => t)

/-- EEP.STEP (R191). -/
def execEepStep (clock data : Bool) (s : State) : Host.Outcome State Fault Refusal :=
  if s.cfg.hasEeprom then .next (s.eepStep clock data) else .refused .deviceAbsent

/-- EEP.OUT (R202): it changes nothing but returns the level. -/
def execEepOut (s : State) : Host.Outcome State Fault Refusal :=
  if s.cfg.hasEeprom then .next (s.addReply (.line s.eepOut)) else .refused .deviceAbsent

end Sys2Proof.Machine
end

