-- ==== Sys2Proof/Machine/Mapper.lean ====
section
/-! DEFINITION. BankMapper (R160 to R175): the linear fold, the paged window, the overlay and its two devices, the contract
operations and their dispatch on the variant, with the rows MAP, LIN, PAG, BAT, SRAM.DEV, EEPROM.DEV, OVERLAY.CTRL, BANK.VALUE. -/

namespace Sys2Proof.Machine

/-! ## Translation -/

/-- `Pow2Ceil(s)`: the smallest power of two that is at least `s` (R161, D26). -/
def pow2Ceil (s : Nat) : Nat := if s ≤ 1 then 1 else 2 ^ ((s - 1).log2 + 1)

/-- `LinearIndex(p)` (R161), with the fold by `ROM_SIZE - 1` as the source writes it (U9). -/
def linearIndex (romSize p : Nat) : Nat :=
  if p < romSize then p
  else
    let i := p &&& (pow2Ceil romSize - 1)
    if romSize - 1 < i then i - (romSize - 1) else i

/-- `RomByte(p)` (R161). -/
def romAt (cfg : BusConfig) (p : Nat) : Byte := cfg.romByte (linearIndex cfg.romSize p)

/-- `PagedPhys(p)` (R165). -/
def pagedPhys (cfg : BusConfig) (bank p : Nat) : Nat :=
  if cfg.bankWindowBase ≤ p ∧ p < cfg.bankWindowBase + cfg.pageSize then bank * cfg.pageSize + (p - cfg.bankWindowBase)
  else p

/-- `PagedByte(p)` (R165). -/
def State.pagedAt (s : State) (p : Nat) : Byte := romAt s.cfg (pagedPhys s.cfg s.mapper.bankRegister p)

/-- A BYTE or a WORD from a byte-wise source, each byte index computed on its own (R162, R165). -/
def byBytes (f : Nat → Byte) (n : Width) (a : Addr) : Datum :=
  match n with
  | .byte => .byte (f a.toNat)
  | .word => .word (wordOf (f a.toNat) (f (a + 1#24).toNat))

/-! ## Devices -/

/-- The SRAM index of an address (R171). -/
def sramIndex (o : Overlay) (a : Addr) : Nat := a.toNat - o.lo.toNat

/-- The index of a WORD's second byte (R171). -/
def sramIndexNext (o : Overlay) (a : Addr) : Nat := (sramIndex o a + 1) % BusConfig.sramSize o

/-- `DevRead` of the SRAM (R171). -/
def State.sramRead (s : State) (o : Overlay) (n : Width) (a : Addr) : Datum :=
  match n with
  | .byte => .byte (s.sramByte (sramIndex o a))
  | .word => .word (wordOf (s.sramByte (sramIndex o a)) (s.sramByte (sramIndexNext o a)))

/-- `DevWrite` of the SRAM (R171). -/
def State.sramWrite (s : State) (o : Overlay) (a : Addr) (v : Datum) : State :=
  match v with
  | .byte b => { s with sram := s.sram.write (sramIndex o a) b }
  | .word w =>
    { s with sram := (s.sram.write (sramIndex o a) (highByte w)).write (sramIndexNext o a) (lowByte w) }

/-- `DevRead` of the EEPROM (R172): every overlay address reaches the same lines. -/
def State.eepromRead (s : State) (n : Width) : Datum := lineDatum n s.eepOut

/-- `DevWrite` of the EEPROM (R172): one sample a call. -/
def State.eepromWrite (s : State) (v : Datum) : State := s.eepStep v.lineClock v.lineData

/-- `DevRead(a, n)` by OVERLAY_KIND. -/
def State.devRead (s : State) (o : Overlay) (n : Width) (a : Addr) : Datum :=
  match o.kind with
  | .sram => s.sramRead o n a
  | .eeprom => s.eepromRead n

/-- `DevWrite(a, n, v)` by OVERLAY_KIND. -/
def State.devWrite (s : State) (o : Overlay) (a : Addr) (v : Datum) : State :=
  match o.kind with
  | .sram => s.sramWrite o a v
  | .eeprom => s.eepromWrite v

/-! ## The contract -/

/-- `readData` of the linear variant (R162). -/
def State.linRead (s : State) (n : Width) (a : Addr) : Datum := byBytes (romAt s.cfg) n a

/-- `readData` of the paged variant (R165). -/
def State.pagRead (s : State) (n : Width) (a : Addr) : Datum := byBytes s.pagedAt n a

/-- `readData` of the battery variant (R168). -/
def State.batRead (s : State) (n : Width) (a : Addr) : Datum :=
  match s.cfg.overlay with
  | none => s.linRead n a
  | some o => if s.cfg.inOverlay a ∧ s.mapper.overlayMode ≠ .disabled then s.devRead o n a else s.linRead n a

/-- `writeData` that reaches ROM (R163, R166): ignored and logged. -/
def State.romWrite (s : State) (a : Addr) : State := s.addLog .romWrite (.addr a)

/-- `writeData` of the battery variant (R169). -/
def State.batWrite (s : State) (a : Addr) (v : Datum) : State :=
  match s.cfg.overlay with
  | none => s.romWrite a
  | some o =>
    if s.cfg.inOverlay a ∧ s.mapper.overlayMode = .readWrite then s.devWrite o a v
    else if s.cfg.inOverlay a ∧ s.mapper.overlayMode = .readOnly then s.addLog .overlayWriteProtected (.addr a)
    else s.romWrite a

/-- `writeBankSelect` of the linear variant: the lazy upgrade (R164). -/
def State.linBanksel (s : State) (val : Word) : State :=
  { s with mapper := { s.mapper with variant := .paged, bankRegister := bankOf s.cfg val } }

/-- `writeBankSelect` of the paged variant (R167): every address of the range writes the one register. -/
def State.pagBanksel (s : State) (val : Word) : State :=
  { s with mapper := { s.mapper with bankRegister := bankOf s.cfg val } }

/-- The overlay mode taken from a control value (R170). -/
def State.setOverlayMode (s : State) (val : Word) : State :=
  { s with mapper := { s.mapper with overlayMode := overlayModeOf val } }

/-- `writeBankSelect` of the battery variant (R170). -/
def State.batBanksel (s : State) (a : Addr) (val : Word) : State :=
  if regBase a = s.cfg.addrOverlayCtrl then s.setOverlayMode val
  else s.addLog .unexpectedWrite (.addrVal a val)

/-- `MAP.RD` dispatch (R160). -/
def State.mapRead (s : State) (n : Width) (a : Addr) : Datum :=
  match s.mapper.variant with
  | .linear => s.linRead n a
  | .paged => s.pagRead n a
  | .battery => s.batRead n a

/-- `MAP.WR` dispatch (R160). -/
def State.mapWrite (s : State) (a : Addr) (v : Datum) : State :=
  match s.mapper.variant with
  | .linear => s.romWrite a
  | .paged => s.romWrite a
  | .battery => s.batWrite a v

/-- `MAP.BANKSEL` dispatch (R160). -/
def State.mapBanksel (s : State) (a : Addr) (val : Word) : State :=
  match s.mapper.variant with
  | .linear => s.linBanksel val
  | .paged => s.pagBanksel val
  | .battery => s.batBanksel a val

/-- A read presented to the contract at any size: a LONG is two WORD reads (D45). -/
def splitRead (f : Width → Addr → Datum) (n : Size) (a : Addr) : BusDatum :=
  match n with
  | .byte => (f .byte a).toBus
  | .word => (f .word a).toBus
  | .long => joinLong (f .word a) (f .word (a + 2#24))

/-- A write presented to the contract at any size: a LONG is two WORD writes, bits 31:16 first (D45). -/
def splitWrite (f : State → Addr → Datum → State) (s : State) (a : Addr) (v : BusDatum) : State :=
  match v with
  | .byte b => f s a (.byte b)
  | .word w => f s a (.word w)
  | .long l => f (f s a (.word (highWord l))) (a + 2#24) (.word (lowWord l))

/-- The first `n` bytes of a store, from index 0. -/
def storeImage (byteAt : Nat → Byte) (n : Nat) : List Byte := (List.range n).map byteAt

/-- The battery-backed contents handed to the host (R175): every byte of the store, those no write touched among them. -/
def State.batteryImage (s : State) : Reply :=
  match s.cfg.overlay with
  | none => .noImage
  | some o =>
    match o.kind with
    | .sram => .sramImage (storeImage s.sramByte (BusConfig.sramSize o))
    | .eeprom => .eepImage (storeImage s.eepByte s.cfg.eepromSize)

/-- `closeSession()` (R175): the contents are handed over and no operation is defined after it (log entry 14). -/
def State.close (s : State) : State := { s with closed := true }.addReply s.batteryImage

/-! ## The rows -/

/-- MAP.RD (R160). The spec gives the contract no address range: at any address the dispatch is performed (log entry 38). -/
def execMapRd (n : Size) (a : Addr) (s : State) : Host.Outcome State Fault Refusal :=
  .next (s.addReply (.data (splitRead s.mapRead n a)))

/-- MAP.WR (R160), at any address (log entry 38). -/
def execMapWr (a : Addr) (v : BusDatum) (s : State) : Host.Outcome State Fault Refusal :=
  .next (splitWrite State.mapWrite s a v)

/-- MAP.BANKSEL (R160), at any address (log entry 38). -/
def execMapBanksel (a : Addr) (val : Word) (s : State) : Host.Outcome State Fault Refusal :=
  .next (s.mapBanksel a val)

/-- LIN.RD (R162), at any address (log entry 38). -/
def execLinRd (n : Size) (a : Addr) (s : State) : Host.Outcome State Fault Refusal :=
  whenSelected (s.mapper.variant == .linear) (.next (s.addReply (.data (splitRead s.linRead n a))))

/-- LIN.WR (R163), at any address (log entry 38). -/
def execLinWr (a : Addr) (v : BusDatum) (s : State) : Host.Outcome State Fault Refusal :=
  whenSelected (s.mapper.variant == .linear) (.next (splitWrite (fun t x _ => t.romWrite x) s a v))

/-- LIN.BANKSEL (R164): the address only qualifies the write, and is not tested here (log entry 38). -/
def execLinBanksel (_a : Addr) (val : Word) (s : State) : Host.Outcome State Fault Refusal :=
  whenSelected (s.mapper.variant == .linear) (.next (s.linBanksel val))

/-- PAG.RD (R165), at any address (log entry 38). -/
def execPagRd (n : Size) (a : Addr) (s : State) : Host.Outcome State Fault Refusal :=
  whenSelected (s.mapper.variant == .paged) (.next (s.addReply (.data (splitRead s.pagRead n a))))

/-- PAG.WR (R166), at any address (log entry 38). -/
def execPagWr (a : Addr) (v : BusDatum) (s : State) : Host.Outcome State Fault Refusal :=
  whenSelected (s.mapper.variant == .paged) (.next (splitWrite (fun t x _ => t.romWrite x) s a v))

/-- PAG.BANKSEL (R167): the address only qualifies the write, and is not tested here (log entry 38). -/
def execPagBanksel (_a : Addr) (val : Word) (s : State) : Host.Outcome State Fault Refusal :=
  whenSelected (s.mapper.variant == .paged) (.next (s.pagBanksel val))

/-- BAT.RD (R168), at any address (log entry 38). -/
def execBatRd (n : Size) (a : Addr) (s : State) : Host.Outcome State Fault Refusal :=
  whenSelected (s.mapper.variant == .battery) (.next (s.addReply (.data (splitRead s.batRead n a))))

/-- BAT.WR (R169), at any address (log entry 38). -/
def execBatWr (a : Addr) (v : BusDatum) (s : State) : Host.Outcome State Fault Refusal :=
  whenSelected (s.mapper.variant == .battery) (.next (splitWrite State.batWrite s a v))

/-- BAT.BANKSEL (R170), at any address (log entry 38). -/
def execBatBanksel (a : Addr) (val : Word) (s : State) : Host.Outcome State Fault Refusal :=
  whenSelected (s.mapper.variant == .battery) (.next (s.batBanksel a val))

/-- OVERLAY.CTRL: the value of a mapper-control write in the battery variant (R170, R77). -/
def execOverlayCtrl (val : Word) (s : State) : Host.Outcome State Fault Refusal :=
  whenSelected (s.mapper.variant == .battery) (.next (s.setOverlayMode val))

/-- BANK.VALUE: the value of a bank-select write (R167), also of the upgrade (R164). -/
def execBankValue (val : Word) (s : State) : Host.Outcome State Fault Refusal :=
  match s.mapper.variant with
  | .linear => .next (s.linBanksel val)
  | .paged => .next (s.pagBanksel val)
  | .battery => .refused .rowNotSelected

/-- SRAM.DEV (R171). -/
def execSramDev (a : Addr) (acc : DevAccess) (s : State) : Host.Outcome State Fault Refusal :=
  match s.cfg.overlay with
  | none => .refused .deviceAbsent
  | some o =>
    if o.kind = .sram then
      if s.cfg.inOverlay a then
        match acc with
        | .read n => answered (s, s.sramRead o n a)
        | .write v => .next (s.sramWrite o a v)
      else .fault .sramIndexOutside
    else .refused .deviceAbsent

/-- EEPROM.DEV (R172): every address of the overlay range reaches the same two lines; that an address outside it reaches them too
is the model's choice (log entry 39). -/
def execEepromDev (_a : Addr) (acc : DevAccess) (s : State) : Host.Outcome State Fault Refusal :=
  if s.cfg.hasEeprom then
    match acc with
    | .read n => answered (s, s.eepromRead n)
    | .write v => .next (s.eepromWrite v)
  else .refused .deviceAbsent

/-- MAP.CLOSE (R175). -/
def execMapClose (s : State) : Host.Outcome State Fault Refusal := .next s.close

end Sys2Proof.Machine
end

