-- ==== Sys2Proof/Machine/Registers.lean ====
section
/-! DEFINITION. The internal control registers (R140 to R149): the writes and reads of the REG window, their sub-decode, and the
rows of the REG sub-decode and of Format V. -/

namespace Sys2Proof.Machine

/-! ## Writes -/

/-- MEMMODE.WR (R140). -/
def State.memmodeWrite (s : State) (val : Word) : State := { s with memoryMode := val }

/-- BUSREQ.ASSERT and BUSREQ.RELEASE (R141). -/
def State.setBusreq (s : State) (b : Bool) : State := { s with coCpuBusRequested := b }

/-- A value that no pattern of its register takes (R141, R142): logged, no state change. -/
def State.unexpectedValue (s : State) (a : Addr) (val : Word) : State := s.addLog .unexpectedValue (.addrVal a val)

/-- BUSREQ.WR (R141), the patterns in the order of R77. -/
def State.busreqWrite (s : State) (a : Addr) (val : Word) : State :=
  if valAsserts val then s.setBusreq true
  else if val = 0x0000#16 then s.setBusreq false
  else s.unexpectedValue a val

/-- CORESET.ASSERT (R142): only while the bus is requested. -/
def State.coresetAssert (s : State) (a : Addr) : State :=
  if s.coCpuBusRequested then { s with coCpuResetAsserted := true }.addCall .coReset
  else s.unexpectedValue a 0x0000#16

/-- CORESET.RELEASE (R142): the bus need not be requested. -/
def State.coresetRelease (s : State) : State := { s with coCpuResetAsserted := false }

/-- CORESET.WR (R142). -/
def State.coresetWrite (s : State) (a : Addr) (val : Word) : State :=
  if val = 0x0000#16 then s.coresetAssert a
  else if val = 0x0100#16 ∨ val = 0x0001#16 then s.coresetRelease
  else s.unexpectedValue a val

/-- TMSS.WR (R144): latched and logged, nothing is gated. -/
def State.tmssWrite (s : State) (a : Addr) (val : Word) : State :=
  { s with tmssLatch := val }.addLog .tmssWrite (.addrVal a val)

/-- REG.OTHER.WR (R145). -/
def State.regOtherWrite (s : State) (a : Addr) (val : Word) : State := s.addLog .unexpectedWrite (.addrVal a val)

/-- `RegWrite(a, n, v)` (R113, R148), sub-decoded by R74 on its own address. -/
def State.regWrite (s : State) (a : Addr) (v : Datum) : State :=
  match regSelOf s.cfg a with
  | .memmode => s.memmodeWrite v.zext16
  | .busreq => s.busreqWrite a v.zext16
  | .coreset => s.coresetWrite a v.zext16
  | .banksel => s.mapBanksel a v.zext16
  | .tmss => s.tmssWrite a v.zext16
  | .other => s.regOtherWrite a v.zext16

/-! ## Reads -/

/-- BUSREQ.RD (R146). -/
def State.busreqRead (s : State) (n : Width) (a : Addr) : Datum := lane n a s.busreqWord

/-- REG.OTHER.RD (R147). -/
def State.regOtherRead (s : State) (n : Width) (a : Addr) : State × Datum :=
  (s.addLog .unexpectedRead (.addr a), ones n)

/-- `RegRead(a, n)` (R112). -/
def State.regRead (s : State) (n : Width) (a : Addr) : State × Datum :=
  match regSelOf s.cfg a with
  | .busreq => (s, s.busreqRead n a)
  | .memmode => s.regOtherRead n a
  | .coreset => s.regOtherRead n a
  | .banksel => s.regOtherRead n a
  | .tmss => s.regOtherRead n a
  | .other => s.regOtherRead n a

/-! ## The rows -/

/-- The address lies in the REG window and selects this register (R73, R74). -/
def State.selectsReg (s : State) (a : Addr) (r : RegSel) : Bool :=
  regionOf s.cfg s.mapper.variant a == .reg && regSelOf s.cfg a == r

/-- MEMMODE.WR (R140). -/
def execMemmodeWr (a : Addr) (val : Word) (s : State) : Host.Outcome State Fault Refusal :=
  whenSelected (s.selectsReg a .memmode) (.next (s.memmodeWrite val))

/-- BUSREQ.WR (R141). -/
def execBusreqWr (a : Addr) (val : Word) (s : State) : Host.Outcome State Fault Refusal :=
  whenSelected (s.selectsReg a .busreq) (.next (s.busreqWrite a val))

/-- CORESET.WR (R142). -/
def execCoresetWr (a : Addr) (val : Word) (s : State) : Host.Outcome State Fault Refusal :=
  whenSelected (s.selectsReg a .coreset) (.next (s.coresetWrite a val))

/-- BANKSEL.WR (R143). -/
def execBankselWr (a : Addr) (val : Word) (s : State) : Host.Outcome State Fault Refusal :=
  whenSelected (s.selectsReg a .banksel) (.next (s.mapBanksel a val))

/-- TMSS.WR (R144). -/
def execTmssWr (a : Addr) (val : Word) (s : State) : Host.Outcome State Fault Refusal :=
  whenSelected (s.selectsReg a .tmss) (.next (s.tmssWrite a val))

/-- REG.OTHER.WR (R145). -/
def execRegOtherWr (a : Addr) (val : Word) (s : State) : Host.Outcome State Fault Refusal :=
  whenSelected (s.selectsReg a .other) (.next (s.regOtherWrite a val))

/-- BUSREQ.RD (R146). -/
def execBusreqRd (n : Width) (a : Addr) (s : State) : Host.Outcome State Fault Refusal :=
  whenSelected (s.selectsReg a .busreq) (answered (s, s.busreqRead n a))

/-- REG.OTHER.RD (R147): every register of the window but the bus request. -/
def execRegOtherRd (n : Width) (a : Addr) (s : State) : Host.Outcome State Fault Refusal :=
  whenSelected (regionOf s.cfg s.mapper.variant a == .reg && regSelOf s.cfg a != .busreq)
    (answered (s.regOtherRead n a))

/-- BUSREQ.ASSERT (R141). -/
def execBusreqAssert (_val : Word) (s : State) : Host.Outcome State Fault Refusal := .next (s.setBusreq true)

/-- BUSREQ.RELEASE (R141). -/
def execBusreqRelease (s : State) : Host.Outcome State Fault Refusal := .next (s.setBusreq false)

/-- BUSREQ.UNEXPECTED (R141). -/
def execBusreqUnexpected (a : Addr) (val : Word) (s : State) : Host.Outcome State Fault Refusal :=
  whenSelected (s.selectsReg a .busreq) (.next (s.unexpectedValue a val))

/-- CORESET.ASSERT (R142). -/
def execCoresetAssert (a : Addr) (s : State) : Host.Outcome State Fault Refusal :=
  whenSelected (s.selectsReg a .coreset) (.next (s.coresetAssert a))

/-- CORESET.RELEASE, value 0x0100 (R142). -/
def execCoresetRelease (s : State) : Host.Outcome State Fault Refusal := .next s.coresetRelease

/-- CORESET.RELEASE.ALT, value 0x0001 (R142). -/
def execCoresetReleaseAlt (s : State) : Host.Outcome State Fault Refusal := .next s.coresetRelease

/-- CORESET.UNEXPECTED (R142). -/
def execCoresetUnexpected (a : Addr) (val : Word) (s : State) : Host.Outcome State Fault Refusal :=
  whenSelected (s.selectsReg a .coreset) (.next (s.unexpectedValue a val))

end Sys2Proof.Machine
end

