-- ==== Sys2Proof/Machine/Vdp.lean ====
section
/-! DEFINITION. The VDP ports seen from the bus (R114, R115, R118) with what a forwarded word may do in the DMA and FIFO engine
(R221, R226), and the VDP port rows of Format B with DMA.START and FIFO.PUSH. -/

namespace Sys2Proof.Machine

/-! ## The engine's intake -/

/-- The state DMA.START leaves (R221). -/
def State.loadDma (s : State) (o : DmaOperands) : State :=
  { s with dma :=
      { s.dma with
        mode := modeOf o.mode
        lengthCounter := o.length
        sourceAddress := o.source
        destinationAddress := o.destination
        target := if o.mode = .copy then .vram else o.target
        autoInc := o.autoInc
        fillValue := o.fillValue
        slotPhase := false
        busyFlag := true } }

/-- DMA.START (R221): length at least 1 and no transfer active, otherwise no rule gives it a meaning (U14). -/
def State.startDma (s : State) (o : DmaOperands) : Except Refusal State :=
  if 1 ≤ o.length ∧ s.dma.mode = .none then .ok (s.loadDma o) else .error .dmaStartUndefined

/-- The append of FIFO.PUSH (R226). -/
def State.pushFifo (s : State) (e : FifoEntry) : State :=
  { s with dma := { s.dma with fifoQueue := s.dma.fifoQueue ++ [e] } }

/-! ## Reads -/

/-- `VdpRdWord(x)` (R114). -/
def State.vdpReadWord (s : State) (x : Addr) : State × Word :=
  match vdpOffsetOf x with
  | .data => (s.askDataPort, s.dataPortAnswer)
  | .control => (s.askControl, s.controlAnswer)
  | .hv => (s.askVCounter.askHCounter, wordOf s.vCounterAnswer s.askVCounter.hCounterAnswer)
  | .unexpected => (s.addLog .vdpUnexpectedPort (.addr x), 0xFFFF#16)

/-- `Rd[VDP](a, n)` (R114): one WORD transaction, then the lane. -/
def State.vdpRead (s : State) (n : Width) (a : Addr) : State × Datum :=
  ((s.vdpReadWord a).1, lane n a (s.vdpReadWord a).2)

/-! ## Writes -/

/-- The port a forwarded write goes to (R115). -/
def portOf (x : Addr) : Port := if portOffset x < 0x04#24 then .data else .control

/-- `Vdp.writeVdpPortWord(port, w)` (R115): a DATA word is exactly one push, with the target and address of the VDP's own
registers; either port's register programming may start a transfer (R220). -/
def State.portWrite (s : State) (p : Port) (w : Word) : Except Refusal State :=
  let ans := s.portAnswer
  let s1 := s.askPort p w
  let s2 := match p with
    | .data => s1.pushFifo ⟨ans.target, ans.addr, w⟩
    | .control => s1
  match ans.start with
  | none => .ok s2
  | some o => s2.startDma o

/-- `VdpForward(x, n, v)` (R115). -/
def State.vdpForward (s : State) (x : Addr) (v : Datum) : Except Refusal State := s.portWrite (portOf x) v.mirrored

/-- `Wr[VDP](x, n, v)` (R115, R118): deferred, un-mirrored, while the VDP is not ready. -/
def State.vdpWrite (s : State) (x : Addr) (v : Datum) : Except Refusal State :=
  match vdpOffsetOf x with
  | .hv => .ok (s.addLog .vdpUnexpectedPort (.addr x))
  | .unexpected => .ok (s.addLog .vdpUnexpectedPort (.addr x))
  | .data => if s.vdpReady then s.vdpForward x v else .ok (s.defer ⟨x, v⟩)
  | .control => if s.vdpReady then s.vdpForward x v else .ok (s.defer ⟨x, v⟩)

/-! ## The rows -/

/-- The address lies in the VDP window (R73). -/
def State.inVdp (s : State) (a : Addr) : Bool := regionOf s.cfg s.mapper.variant a == .vdp

/-- The address passes the window and validity tests and selects this port (R75). -/
def State.selectsPort (s : State) (a : Addr) (o : VdpOffset) : Bool :=
  s.inVdp a && vdpValid s.cfg a && vdpOffsetOf a == o

/-- VDP.RD with its validity test (R100, R114): an invalid address is logged and answers all-ones. -/
def execVdpRd (n : Width) (a : Addr) (s : State) : Host.Outcome State Fault Refusal :=
  whenSelected (s.inVdp a)
    (if vdpValid s.cfg a then answered (s.vdpRead n a)
     else answered (s.addLog .vdpInvalidRead (.addr a), ones n))

/-- VDP.WR with its validity test (R101, R115): an invalid address raises the fatal error. -/
def execVdpWr (a : Addr) (v : Datum) (s : State) : Host.Outcome State Fault Refusal :=
  whenSelected (s.inVdp a)
    (if vdpValid s.cfg a then ofExcept (s.vdpWrite a v) else .next (s.raiseFatal .vdpInvalidWrite a))

/-- VDP.RD.DATA (R114). -/
def execVdpRdData (n : Width) (a : Addr) (s : State) : Host.Outcome State Fault Refusal :=
  whenSelected (s.selectsPort a .data) (answered (s.vdpRead n a))

/-- VDP.RD.CONTROL (R114). -/
def execVdpRdControl (n : Width) (a : Addr) (s : State) : Host.Outcome State Fault Refusal :=
  whenSelected (s.selectsPort a .control) (answered (s.vdpRead n a))

/-- VDP.RD.HV (R114). -/
def execVdpRdHv (n : Width) (a : Addr) (s : State) : Host.Outcome State Fault Refusal :=
  whenSelected (s.selectsPort a .hv) (answered (s.vdpRead n a))

/-- VDP.RD.UNEXPECTED (R114). -/
def execVdpRdUnexpected (n : Width) (a : Addr) (s : State) : Host.Outcome State Fault Refusal :=
  whenSelected (s.selectsPort a .unexpected) (answered (s.vdpRead n a))

/-- VDP.WR.DATA (R115). -/
def execVdpWrData (a : Addr) (v : Datum) (s : State) : Host.Outcome State Fault Refusal :=
  whenSelected (s.selectsPort a .data) (ofExcept (s.vdpWrite a v))

/-- VDP.WR.CONTROL (R115). -/
def execVdpWrControl (a : Addr) (v : Datum) (s : State) : Host.Outcome State Fault Refusal :=
  whenSelected (s.selectsPort a .control) (ofExcept (s.vdpWrite a v))

/-- VDP.WR.UNEXPECTED: the HV counter and the offsets without a port (R115). -/
def execVdpWrUnexpected (a : Addr) (v : Datum) (s : State) : Host.Outcome State Fault Refusal :=
  whenSelected (s.selectsPort a .hv || s.selectsPort a .unexpected) (ofExcept (s.vdpWrite a v))

/-- VDP.WR.DEFERRED: a data or control write while the FIFO is full or a memory-to-VRAM transfer is active (R118). -/
def execVdpWrDeferred (a : Addr) (v : Datum) (s : State) : Host.Outcome State Fault Refusal :=
  whenSelected ((s.selectsPort a .data || s.selectsPort a .control) && !s.vdpReady) (.next (s.defer ⟨a, v⟩))

/-- DMA.START (R221). -/
def execDmaStart (o : DmaOperands) (s : State) : Host.Outcome State Fault Refusal := ofExcept (s.startDma o)

/-- FIFO.PUSH (R226): refused on a full FIFO (U17). -/
def execFifoPush (target : VdpTarget) (addr data : Word) (s : State) : Host.Outcome State Fault Refusal :=
  if s.dma.fifoQueue.length < s.cfg.fifoCapacity then .next (s.pushFifo ⟨target, addr, data⟩)
  else .refused .fifoFull

end Sys2Proof.Machine
end

