-- ==== Sys2Proof/Machine/Bus.lean ====
section
/-! DEFINITION. SystemBus (R100 to R119): the region handlers, the dispatch of MemRead and MemWrite, and the region rows of
Format B. -/

namespace Sys2Proof.Machine

/-! ## RAM (R104, R105) -/

/-- `Rd[RAM](a, n)`. -/
def State.ramRead (s : State) (n : Width) (a : Addr) : Datum :=
  match n with
  | .byte => .byte (s.ramByte (ramIndex a))
  | .word => .word (wordOf (s.ramByte (ramIndex a)) (s.ramByte (ramIndexNext a)))

/-- `Wr[RAM](a, n, v)`. -/
def State.ramWrite (s : State) (a : Addr) (v : Datum) : State :=
  match v with
  | .byte b => { s with ram := s.ram.write (ramIndex a) b }
  | .word w => { s with ram := (s.ram.write (ramIndex a) (highByte w)).write (ramIndexNext a) (lowByte w) }

/-! ## Reserved and unmapped (R106, R107, R116, R117) -/

/-- `Rd[RESERVED](a, n)`. -/
def State.rsvRead (s : State) (n : Width) (a : Addr) : State × Datum := (s.addLog .reservedRead (.addr a), ones n)

/-- `Wr[RESERVED](a, n, v)`. -/
def State.rsvWrite (s : State) (a : Addr) : State := s.addLog .reservedWrite (.addr a)

/-- `Rd[UNMAPPED](a, n)`. -/
def State.unmappedRead (s : State) (n : Width) (a : Addr) : State × Datum :=
  (s.addLog .unmappedRead (.addr a), ones n)

/-- `Wr[UNMAPPED](a, n, v)`. -/
def State.unmappedWrite (s : State) (a : Addr) : State := s.addLog .unmappedWrite (.addr a)

/-! ## The co-CPU window (R108, R109) -/

/-- `Rd[COCPU](a, n)`: the penalty before the ownership test; a WORD duplicates the byte. -/
def State.coRead (s : State) (n : Width) (a : Addr) : State × Datum :=
  let s1 := s.addPenalty .main s.cfg.coPenalty
  if s1.coAccess then
    let b := s1.comemByte (comemIndex s1.cfg a)
    match n with
    | .byte => (s1, .byte b)
    | .word => (s1, .word (wordOf b b))
  else (s1.addLog .coNoOwnership (.addr a), zeros n)

/-- The byte a co-CPU window write stores: of a WORD the high byte alone (R109). -/
def coStored : Datum → Byte
  | .byte b => b
  | .word w => highByte w

/-- `Wr[COCPU](a, n, v)`. -/
def State.coWrite (s : State) (a : Addr) (v : Datum) : State :=
  let s1 := s.addPenalty .main s.cfg.coPenalty
  if s1.coAccess then { s1 with comem := s1.comem.write (comemIndex s1.cfg a) (coStored v) }
  else s1.addLog .coNoOwnership (.addr a)

/-! ## IO ports (R110, R111) -/

/-- `a - 0xA10000` (R76). -/
def ioOffset (a : Addr) : Addr := a - 0xA10000#24

/-- `(off + 1) & 0x1F`: the offset of a WORD's second byte (R110). -/
def ioOffsetNext (a : Addr) : Addr := (ioOffset a + 1#24) &&& 0x1F#24

/-- Offsets 0 and 1 are the version register (R76). -/
def isVersion (o : Addr) : Bool := o == 0#24 || o == 1#24

/-- `IoByte(o)` (R110). -/
def State.ioByte (s : State) (o : Addr) : State × Byte :=
  if isVersion o then (s, s.cfg.version) else (s.askIo o, s.ioAnswer)

/-- `IoPut(o, b)` (R111): the version register is read-only; the event records the address and the byte (R286, log entry 17). -/
def State.ioPut (s : State) (o : Addr) (b : Byte) : State :=
  if isVersion o then s.addLog .unexpectedWrite (.addrVal (0xA10000#24 + o) (b.setWidth 16)) else s.addCall (.ioWrite o b)

/-- `Rd[IO](a, n)`. -/
def State.ioRead (s : State) (n : Width) (a : Addr) : State × Datum :=
  let r1 := s.ioByte (ioOffset a)
  match n with
  | .byte => (r1.1, .byte r1.2)
  | .word =>
    let r2 := r1.1.ioByte (ioOffsetNext a)
    (r2.1, .word (wordOf r1.2 r2.2))

/-- `Wr[IO](a, n, v)`. -/
def State.ioWrite (s : State) (a : Addr) (v : Datum) : State :=
  match v with
  | .byte b => s.ioPut (ioOffset a) b
  | .word w => (s.ioPut (ioOffset a) (highByte w)).ioPut (ioOffsetNext a) (lowByte w)

/-! ## Dispatch (R100, R101) -/

/-- `Rd[g](a, n)`: the read handler of a region. -/
def State.readHandler (s : State) (g : Region) (n : Width) (a : Addr) : State × Datum :=
  match g with
  | .cart => (s, s.mapRead n a)
  | .ram => (s, s.ramRead n a)
  | .reserved => s.rsvRead n a
  | .coCpu => s.coRead n a
  | .io => s.ioRead n a
  | .reg => s.regRead n a
  | .vdp => s.vdpRead n a
  | .unmapped => s.unmappedRead n a

/-- `Wr[g](a, n, v)`: the write handler of a region. -/
def State.writeHandler (s : State) (g : Region) (a : Addr) (v : Datum) : Except Refusal State :=
  match g with
  | .cart => .ok (s.mapWrite a v)
  | .ram => .ok (s.ramWrite a v)
  | .reserved => .ok (s.rsvWrite a)
  | .coCpu => .ok (s.coWrite a v)
  | .io => .ok (s.ioWrite a v)
  | .reg => .ok (s.regWrite a v)
  | .vdp => s.vdpWrite a v
  | .unmapped => .ok (s.unmappedWrite a)

/-- A read by one handler at any size: a LONG is two WORD operations on it, not decoded again (R43, R100). -/
def State.readBy (s : State) (g : Region) (n : Size) (a : Addr) : State × BusDatum :=
  match n with
  | .byte => let r := s.readHandler g .byte a; (r.1, r.2.toBus)
  | .word => let r := s.readHandler g .word a; (r.1, r.2.toBus)
  | .long =>
    let r1 := s.readHandler g .word a
    let r2 := r1.1.readHandler g .word (a + 2#24)
    (r2.1, joinLong r1.2 r2.2)

/-- A write by one handler at any size (R43, R101). -/
def State.writeBy (s : State) (g : Region) (a : Addr) (v : BusDatum) : Except Refusal State :=
  match v with
  | .byte b => s.writeHandler g a (.byte b)
  | .word w => s.writeHandler g a (.word w)
  | .long l =>
    match s.writeHandler g a (.word (highWord l)) with
    | .error r => .error r
    | .ok s1 => s1.writeHandler g (a + 2#24) (.word (lowWord l))

/-- The region of a masked address in a state (R73, R82). -/
def State.region (s : State) (a : Addr) : Region := regionOf s.cfg s.mapper.variant a

/-- `MemRead(addr, n)` (R100). -/
def State.memRead (s : State) (n : Size) (addr : BitVec 32) : State × BusDatum :=
  let a := mask24 addr
  if s.region a = .vdp ∧ vdpValid s.cfg a = false then (s.addLog .vdpInvalidRead (.addr a), busOnes n)
  else s.readBy (s.region a) n a

/-- `MemWrite(addr, n, v)` (R101). -/
def State.memWrite (s : State) (addr : BitVec 32) (v : BusDatum) : Except Refusal State :=
  let a := mask24 addr
  if s.region a = .vdp ∧ vdpValid s.cfg a = false then .ok (s.raiseFatal .vdpInvalidWrite a)
  else s.writeBy (s.region a) a v

/-! ## The rows -/

/-- MemRead: RD.B, RD.W, RD.L (R100). -/
def execMemRead (n : Size) (addr : BitVec 32) (s : State) : Host.Outcome State Fault Refusal :=
  .next ((s.memRead n addr).1.addReply (.data (s.memRead n addr).2))

/-- MemWrite: WR.B, WR.W, WR.L (R101). -/
def execMemWrite (addr : BitVec 32) (v : BusDatum) (s : State) : Host.Outcome State Fault Refusal :=
  ofExcept (s.memWrite addr v)

/-- CART.RD (R102). -/
def execCartRd (n : Width) (a : Addr) (s : State) : Host.Outcome State Fault Refusal :=
  whenSelected (s.region a == .cart) (answered (s, s.mapRead n a))

/-- CART.WR (R103). -/
def execCartWr (a : Addr) (v : Datum) (s : State) : Host.Outcome State Fault Refusal :=
  whenSelected (s.region a == .cart) (.next (s.mapWrite a v))

/-- RAM.RD (R104). -/
def execRamRd (n : Width) (a : Addr) (s : State) : Host.Outcome State Fault Refusal :=
  whenSelected (s.region a == .ram) (answered (s, s.ramRead n a))

/-- RAM.WR (R105). -/
def execRamWr (a : Addr) (v : Datum) (s : State) : Host.Outcome State Fault Refusal :=
  whenSelected (s.region a == .ram) (.next (s.ramWrite a v))

/-- RSV.RD (R106). -/
def execRsvRd (n : Width) (a : Addr) (s : State) : Host.Outcome State Fault Refusal :=
  whenSelected (s.region a == .reserved) (answered (s.rsvRead n a))

/-- RSV.WR (R107). -/
def execRsvWr (a : Addr) (_v : Datum) (s : State) : Host.Outcome State Fault Refusal :=
  whenSelected (s.region a == .reserved) (.next (s.rsvWrite a))

/-- CO.RD (R108). -/
def execCoRd (n : Width) (a : Addr) (s : State) : Host.Outcome State Fault Refusal :=
  whenSelected (s.region a == .coCpu) (answered (s.coRead n a))

/-- CO.WR (R109). -/
def execCoWr (a : Addr) (v : Datum) (s : State) : Host.Outcome State Fault Refusal :=
  whenSelected (s.region a == .coCpu) (.next (s.coWrite a v))

/-- IO.RD (R110). -/
def execIoRd (n : Width) (a : Addr) (s : State) : Host.Outcome State Fault Refusal :=
  whenSelected (s.region a == .io) (answered (s.ioRead n a))

/-- IO.WR (R111). -/
def execIoWr (a : Addr) (v : Datum) (s : State) : Host.Outcome State Fault Refusal :=
  whenSelected (s.region a == .io) (.next (s.ioWrite a v))

/-- REG.RD (R112). -/
def execRegRd (n : Width) (a : Addr) (s : State) : Host.Outcome State Fault Refusal :=
  whenSelected (s.region a == .reg) (answered (s.regRead n a))

/-- REG.WR (R113). -/
def execRegWr (a : Addr) (v : Datum) (s : State) : Host.Outcome State Fault Refusal :=
  whenSelected (s.region a == .reg) (.next (s.regWrite a v))

/-- UNMAPPED.RD (R116). -/
def execUnmappedRd (n : Width) (a : Addr) (s : State) : Host.Outcome State Fault Refusal :=
  whenSelected (s.region a == .unmapped) (answered (s.unmappedRead n a))

/-- UNMAPPED.WR (R117). -/
def execUnmappedWr (a : Addr) (_v : Datum) (s : State) : Host.Outcome State Fault Refusal :=
  whenSelected (s.region a == .unmapped) (.next (s.unmappedWrite a))

end Sys2Proof.Machine
end

