-- ==== Sys2Proof/Machine/Arbiter.lean ====
section
/-! DEFINITION. BusArbiter (R250 to R260): the drain of the deferred queue with its re-deferral flag, the ready edge (R231), and the
arbiter rows of Format P. -/

namespace Sys2Proof.Machine

/-- The replays of a drain, oldest first: each re-enters the normal write path, validity not tested again (R253). -/
def State.replay (s : State) : List DeferredWrite → Except Refusal State
  | [] => .ok s
  | e :: q =>
    match s.vdpWrite e.addr e.data with
    | .error r => .error r
    | .ok s1 => s1.replay q

/-- `Redeferred()` (R254). -/
def State.redeferred (s : State) : State :=
  if s.deferredQueue = [] then s
  else { s with logicError := true }.addLog .redeferral (.count s.deferredQueue.length)

/-- `ARB.DRAIN()` (R253): every entry of the queue is replayed exactly once. -/
def State.drain (s : State) : Except Refusal State :=
  match { s with deferredQueue := [] }.replay s.deferredQueue with
  | .error r => .error r
  | .ok s1 => .ok s1.redeferred

/-- `ReadyEdge()` (R231). -/
def State.readyEdge (s : State) : Except Refusal State :=
  if s.vdpReady ∧ s.deferredQueue ≠ [] then s.drain else .ok s

/-! ## The rows -/

/-- ARB.PEN (R250). -/
def execArbPen (cpu : Cpu) (cycles : Nat) (s : State) : Host.Outcome State Fault Refusal :=
  .next (s.addPenalty cpu cycles)

/-- ARB.TAKEPEN (R251): returns what was accumulated and leaves 0. -/
def execArbTakepen (cpu : Cpu) (s : State) : Host.Outcome State Fault Refusal :=
  .next ((s.clearPenalty cpu).addReply (.count (s.penaltyOf cpu)))

/-- ARB.DEFER (R252). -/
def execArbDefer (e : DeferredWrite) (s : State) : Host.Outcome State Fault Refusal := .next (s.defer e)

/-- ARB.DRAIN (R253). -/
def execArbDrain (s : State) : Host.Outcome State Fault Refusal := ofExcept s.drain

/-- ARB.IRQ.MAIN (R255). -/
def execArbIrqMain (s : State) : Host.Outcome State Fault Refusal := .next s.latchMain

/-- ARB.IRQ.CO (R256). -/
def execArbIrqCo (s : State) : Host.Outcome State Fault Refusal := .next s.latchCo

/-- ARB.RUNNING (R257). -/
def execArbRunning (s : State) : Host.Outcome State Fault Refusal := .next (s.addReply (.flag s.mainRunning))

/-- ARB.FREEZE (R258). -/
def execArbFreeze (b : Bool) (s : State) : Host.Outcome State Fault Refusal := .next (s.freeze b)

/-- VDP.SETLINES (R259). -/
def execVdpSetlines (v h : Bool) (s : State) : Host.Outcome State Fault Refusal := .next (s.setLines v h)

/-- CPU.IACK (R260). -/
def execCpuIack (cpu : Cpu) (which : Irq) (s : State) : Host.Outcome State Fault Refusal := .next (s.iack cpu which)

/-- DMA.READYEDGE (R231). -/
def execDmaReadyedge (s : State) : Host.Outcome State Fault Refusal := ofExcept s.readyEdge

end Sys2Proof.Machine
end

