-- ==== Sys2Proof/Machine/Dma.lean ====
section
/-! DEFINITION. DmaFifoEngine (R220 to R232): the slots of the three modes, completion, the FIFO drain, status and budget, and their
rows of Format P. -/

namespace Sys2Proof.Machine

/-- `Complete()` (R225). -/
def State.dmaComplete (s : State) : Except Refusal State :=
  if s.dma.lengthCounter = 0 then
    { s with dma := { s.dma with mode := .none, busyFlag := false, slotPhase := false } }.readyEdge
  else .ok s

/-- The FILL slot before completion (R222). -/
def State.fillUnit (s : State) : State :=
  { s with
    calls := s.calls ++ [.vdpMemWrite s.dma.target s.dma.destinationAddress s.dma.fillValue]
    dma :=
      { s.dma with
        destinationAddress := s.dma.destinationAddress + s.dma.autoInc.setWidth 16
        lengthCounter := s.dma.lengthCounter - 1 } }

/-- The read slot of COPY (R223). -/
def State.copyFetch (s : State) : State :=
  let s1 := s.askVdpMem .vram (s.dma.sourceAddress.extractLsb' 0 16)
  { s1 with dma := { s1.dma with copyLatch := s.vdpMemAnswer, slotPhase := true } }

/-- The write slot of COPY before completion (R223). -/
def State.copyUnit (s : State) : State :=
  { s with
    calls := s.calls ++ [.vdpMemWrite .vram s.dma.destinationAddress s.dma.copyLatch]
    dma :=
      { s.dma with
        sourceAddress := copySourceNext s.dma.sourceAddress
        destinationAddress := s.dma.destinationAddress + s.dma.autoInc.setWidth 16
        lengthCounter := s.dma.lengthCounter - 1
        slotPhase := false } }

/-- The source word of a memory-to-VRAM unit: a bus read under every rule of the bus (R224). -/
def State.sourceRead (s : State) : State × Word :=
  let r := s.memRead .word (s.dma.sourceAddress.setWidth 32)
  (r.1, match r.2 with
    | .byte b => b.setWidth 16
    | .word w => w
    | .long l => lowWord l)

/-- The word's slot of M68K_TO_VRAM before completion (R224). -/
def State.m68kUnit (s : State) : State :=
  let s1 : State := s.sourceRead.1
  { s1 with
    calls := s1.calls ++ [Call.vdpMemWriteWord s1.dma.target s1.dma.destinationAddress s.sourceRead.2]
    dma :=
      { s1.dma with
        sourceAddress := s1.dma.sourceAddress + 2#24
        destinationAddress := s1.dma.destinationAddress + s1.dma.autoInc.setWidth 16
        lengthCounter := s1.dma.lengthCounter - 1
        slotPhase := false } }

/-- `DMA.SLOT` in mode FILL (R222). -/
def State.slotFill (s : State) : Except Refusal State := s.fillUnit.dmaComplete

/-- `DMA.SLOT` in mode COPY (R223). -/
def State.slotCopy (s : State) : Except Refusal State :=
  if s.dma.slotPhase then s.copyUnit.dmaComplete else .ok s.copyFetch

/-- `DMA.SLOT` in mode M68K_TO_VRAM (R224): a VRAM word takes two slots, the first shows nothing. -/
def State.slotM68k (s : State) : Except Refusal State :=
  if s.dma.target = .vram ∧ s.dma.slotPhase = false then .ok { s with dma := { s.dma with slotPhase := true } }
  else s.m68kUnit.dmaComplete

/-- `DMA.SLOT()` by mode; in mode NONE it does nothing (R225). -/
def State.dmaSlot (s : State) : Except Refusal State :=
  match s.dma.mode with
  | .none => .ok s
  | .fill => s.slotFill
  | .copy => s.slotCopy
  | .m68kToVram => s.slotM68k

/-- `FIFO.DRAIN()` (R227). -/
def State.fifoDrain (s : State) : Except Refusal State :=
  match s.dma.fifoQueue with
  | [] => .ok s
  | e :: q =>
    { s with
      dma := { s.dma with fifoQueue := q }
      calls := s.calls ++ [Call.vdpMemWriteWord e.target e.addr e.data] }.readyEdge

/-- `DMA.STATUS()` (R228). -/
def State.statusReply (s : State) : Reply :=
  .status s.dma.busyFlag s.fifoFull s.m2vBusy s.dma.fifoQueue.isEmpty

/-! ## The rows -/

/-- The slot a row names is the one the active mode gives; with no transfer active a slot does nothing (R225). -/
def State.slotRow (s : State) (mode : DmaMode) (k : Except Refusal State) : Host.Outcome State Fault Refusal :=
  if s.dma.mode = .none then .next s else whenSelected (s.dma.mode == mode) (ofExcept k)

/-- DMA.SLOT.FILL (R222). -/
def execDmaSlotFill (s : State) : Host.Outcome State Fault Refusal := s.slotRow .fill s.slotFill

/-- DMA.SLOT.COPY (R223). -/
def execDmaSlotCopy (s : State) : Host.Outcome State Fault Refusal := s.slotRow .copy s.slotCopy

/-- DMA.SLOT.M68K (R224). -/
def execDmaSlotM68k (s : State) : Host.Outcome State Fault Refusal := s.slotRow .m68kToVram s.slotM68k

/-- DMA.COMPLETE (R225). -/
def execDmaComplete (s : State) : Host.Outcome State Fault Refusal := ofExcept s.dmaComplete

/-- FIFO.DRAIN (R227). -/
def execFifoDrain (s : State) : Host.Outcome State Fault Refusal := ofExcept s.fifoDrain

/-- DMA.STATUS (R228). -/
def execDmaStatus (s : State) : Host.Outcome State Fault Refusal := .next (s.addReply s.statusReply)

/-- DMA.QSLOTS (R229). -/
def execDmaQslots (res : HRes) (period : Period) (s : State) : Host.Outcome State Fault Refusal :=
  .next (s.addReply (.count (slotBudget s.cfg res period)))

end Sys2Proof.Machine
end

