-- ==== Sys2Proof/Machine/Scheduler.lean ====
section
/-! DEFINITION. The Scheduler (R270 to R278): the units of work, the tick, the frame boundary, and their rows of Format P. -/

namespace Sys2Proof.Machine

/-! ## Units of work -/

/-- One bus operation or acknowledge of the main CPU's instruction. -/
def State.mainOp (s : State) : MainOp → Except Refusal State
  | .read n addr => .ok ((s.memRead n addr).1.addReply (.data (s.memRead n addr).2))
  | .write addr v => s.memWrite addr v
  | .iack which => .ok (s.iack .main which)

/-- The operations of the main CPU's instruction, in order; a fatal error abandons the rest (R289). -/
def State.runMain (s : State) : List MainOp → Except Refusal State
  | [] => .ok s
  | op :: ops =>
    if s.fatal.isSome then .ok s
    else
      match s.mainOp op with
      | .error r => .error r
      | .ok s1 => s1.runMain ops

/-- One operation of the co-CPU's instruction. -/
def State.coOp (s : State) : CoOp → State
  | .iack which => s.iack .co which
  | .store i b => { s with comem := s.comem.write (comemIndex s.cfg i) b }

/-- The operations of the co-CPU's instruction, in order. -/
def State.runCo (s : State) (ops : List CoOp) : State := ops.foldl State.coOp s

/-- One operation of the VDP's slot. -/
def State.vdpOp (s : State) : VdpOp → Except Refusal State
  | .start o => s.startDma o
  | .slot => s.dmaSlot
  | .drain => s.fifoDrain
  | .setLines v h => .ok (s.setLines v h)
  | .freeze b => .ok (s.freeze b)
  | .status => .ok (s.addReply s.statusReply)
  | .slots res period => .ok (s.addReply (.count (slotBudget s.cfg res period)))

/-- The operations of the VDP's slot, in order. -/
def State.runVdp (s : State) : List VdpOp → Except Refusal State
  | [] => .ok s
  | op :: ops =>
    match s.vdpOp op with
    | .error r => .error r
    | .ok s1 => s1.runVdp ops

/-! ## The tick -/

/-- `previous_due + divisor * max(1, cycles)` (R272). -/
def dueTick (due div cycles : Nat) : Nat := due + div * max 1 cycles

/-- MAIN's part of a tick (R271): its unit, then the penalty taken and the latch, then the due tick; a fatal error stops it
before the counters (R289); a frozen CPU only advances (R273). -/
def State.tickMain (s : State) : Except Refusal State :=
  if s.sched.nextMain = s.sched.masterTick then
    if s.mainRunning then
      match s.askMainUnit.runMain s.mainUnit.ops with
      | .error r => .error r
      | .ok s1 =>
        if s1.fatal.isSome then .ok s1
        else
          let s2 := (s1.clearPenalty .main).latchMain
          .ok { s2 with sched :=
            { s2.sched with
              nextMain := dueTick s2.sched.nextMain s.cfg.divMain (s.mainUnit.cycles + s1.penalty.main) } }
    else .ok { s with sched := { s.sched with nextMain := s.sched.nextMain + s.cfg.divMain } }
  else .ok s

/-- CO's part of a tick (R271, R273, R276). -/
def State.tickCo (s : State) : State :=
  if s.sched.nextCo = s.sched.masterTick then
    if s.coRunnable then
      let s1 := s.askCoUnit.runCo s.coUnit.ops
      let s2 := (s1.clearPenalty .co).latchCo
      { s2 with sched :=
        { s2.sched with nextCo := dueTick s2.sched.nextCo s.cfg.divCo (s.coUnit.cycles + s1.penalty.co) } }
    else { s with sched := { s.sched with nextCo := s.sched.nextCo + s.cfg.divCo } }
  else s

/-- VDP's part of a tick (R271): the state, and whether the unit raised the new-frame edge. -/
def State.tickVdp (s : State) : Except Refusal (State × Bool) :=
  if s.sched.nextVdp = s.sched.masterTick then
    match s.askVdpUnit.runVdp s.vdpUnit.ops with
    | .error r => .error r
    | .ok s1 =>
      .ok ({ s1 with sched :=
        { s1.sched with nextVdp := dueTick s1.sched.nextVdp s.cfg.divVdp s.vdpUnit.cycles } }, s.vdpUnit.newFrame)
  else .ok (s, false)

/-- AUDIO's part of a tick (R271). -/
def State.tickAudio (s : State) : State :=
  if s.sched.nextAudio = s.sched.masterTick then
    let s1 := s.askAudioUnit
    { s1 with sched :=
      { s1.sched with nextAudio := dueTick s1.sched.nextAudio s.cfg.divAudio s.audioUnit.cycles } }
  else s

/-- `SCH.NEWFRAME()` (R275): the hook, then the rebasing. -/
def State.newFrame (s : State) : State :=
  { s with
    calls := s.calls ++ [.onNewFrame]
    sched :=
      { masterTick := 0
        nextMain := s.sched.nextMain - s.sched.masterTick
        nextCo := s.sched.nextCo - s.sched.masterTick
        nextVdp := s.sched.nextVdp - s.sched.masterTick
        nextAudio := s.sched.nextAudio - s.sched.masterTick } }

/-- The end of a tick (R271): the master tick advances, and an edge ends the frame. -/
def State.endTick (s : State) (frameEdge : Bool) : State :=
  let s1 := { s with sched := { s.sched with masterTick := s.sched.masterTick + 1 } }
  if frameEdge then s1.newFrame else s1

/-- `SCH.TICK()` (R271, R277): MAIN, CO, VDP, AUDIO in this order; a fatal error in MAIN's unit stops the tick where it is
(R289). An operation refused inside a unit refuses the whole tick, which the spec leaves open: DESIGN CHOICE (log entry 41). -/
def State.tick (s : State) : Except Refusal State :=
  match s.tickMain with
  | .error r => .error r
  | .ok s1 =>
    if s1.fatal.isSome then .ok s1
    else
      match s1.tickCo.tickVdp with
      | .error r => .error r
      | .ok (s2, frameEdge) => .ok (s2.tickAudio.endTick frameEdge)

/-! ## The rows -/

/-- SCH.TICK (R271). -/
def execSchTick (s : State) : Host.Outcome State Fault Refusal := ofExcept s.tick

/-- SCH.NEWFRAME (R275). -/
def execSchNewframe (s : State) : Host.Outcome State Fault Refusal := .next s.newFrame

end Sys2Proof.Machine
end

