-- ==== Sys2Proof/Machine/HostPort.lean ====
section
/-! DEFINITION. The upward interface (R321): session creation (R311), reset (R310), closeSession (R313), onNewFrame (R275). -/

namespace Sys2Proof.Machine

/-- The bytes of an image as the cells of a store, the first at the given index. -/
def imageCells : Nat → List Byte → Memory
  | _, [] => []
  | i, b :: bs => (i, b) :: imageCells (i + 1) bs

/-- Session creation (R311): the reset state of R24 for one BusConfig, with `sram` or `eep` holding the saved image handed in, if
there is one. What an image does not reach stays unspecified, and what is longer than the store is cut off (log entry 6). -/
def State.createSession (cfg : BusConfig) (image : Option (List Byte)) : State :=
  match cfg.overlay, image with
  | none, _ => State.create cfg
  | some _, none => State.create cfg
  | some o, some bytes =>
    match o.kind with
    | .sram => { State.create cfg with sram := imageCells 0 (bytes.take (BusConfig.sramSize o)) }
    | .eeprom => { State.create cfg with eep := imageCells 0 (bytes.take cfg.eepromSize) }

/-- `HOST.RESET` (R310): every field of R11 to R22 takes its value of R24; `sram`, `eep` and the session parameters stay; `ram`
and `comem` become unspecified (a new epoch of free values); CoCpu.reset is called. The model's own input lists, traces and
inbox are the environment's and stay (log entry 28). -/
def State.hostReset (s : State) : State :=
  { State.create s.cfg with
    sram := s.sram
    eep := s.eep
    inbox := s.inbox
    inputs := s.inputs
    draws := s.draws
    epoch := s.epoch + 1
    closed := s.closed
    calls := s.calls ++ [.coReset]
    replies := s.replies }

/-- HOST.NEWFRAME: the hook the scheduler calls at a frame boundary (R275); the block's state does not change. -/
def execHostNewframe (s : State) : Host.Outcome State Fault Refusal := .next (s.addCall .onNewFrame)

/-- HOST.RESET (R310). -/
def execHostReset (s : State) : Host.Outcome State Fault Refusal := .next s.hostReset

/-- HOST.CLOSE (R313): performs MAP.CLOSE. -/
def execHostClose (s : State) : Host.Outcome State Fault Refusal := .next s.close

end Sys2Proof.Machine
end

