-- ==== Sys2Proof/Machine/Dispatch.lean ====
section
/-! DEFINITION. The dispatch: one arm per row of spec/opcode_table.json, each a direct call of the row's meaning. -/

namespace Sys2Proof.Machine

def exec (i : Instr) (s : State) : Host.Outcome State Fault Refusal :=
  match i with
  | .memRead x y => Sys2Proof.Machine.execMemRead x y s
  | .memWrite x y => Sys2Proof.Machine.execMemWrite x y s
  | .cartRd x y => Sys2Proof.Machine.execCartRd x y s
  | .cartWr x y => Sys2Proof.Machine.execCartWr x y s
  | .ramRd x y => Sys2Proof.Machine.execRamRd x y s
  | .ramWr x y => Sys2Proof.Machine.execRamWr x y s
  | .rsvRd x y => Sys2Proof.Machine.execRsvRd x y s
  | .rsvWr x y => Sys2Proof.Machine.execRsvWr x y s
  | .coRd x y => Sys2Proof.Machine.execCoRd x y s
  | .coWr x y => Sys2Proof.Machine.execCoWr x y s
  | .ioRd x y => Sys2Proof.Machine.execIoRd x y s
  | .ioWr x y => Sys2Proof.Machine.execIoWr x y s
  | .regRd x y => Sys2Proof.Machine.execRegRd x y s
  | .regWr x y => Sys2Proof.Machine.execRegWr x y s
  | .vdpRd x y => Sys2Proof.Machine.execVdpRd x y s
  | .vdpWr x y => Sys2Proof.Machine.execVdpWr x y s
  | .unmappedRd x y => Sys2Proof.Machine.execUnmappedRd x y s
  | .unmappedWr x y => Sys2Proof.Machine.execUnmappedWr x y s
  | .vdpRdData x y => Sys2Proof.Machine.execVdpRdData x y s
  | .vdpRdControl x y => Sys2Proof.Machine.execVdpRdControl x y s
  | .vdpRdHv x y => Sys2Proof.Machine.execVdpRdHv x y s
  | .vdpRdUnexpected x y => Sys2Proof.Machine.execVdpRdUnexpected x y s
  | .vdpWrData x y => Sys2Proof.Machine.execVdpWrData x y s
  | .vdpWrControl x y => Sys2Proof.Machine.execVdpWrControl x y s
  | .vdpWrUnexpected x y => Sys2Proof.Machine.execVdpWrUnexpected x y s
  | .vdpWrDeferred x y => Sys2Proof.Machine.execVdpWrDeferred x y s
  | .memmodeWr x y => Sys2Proof.Machine.execMemmodeWr x y s
  | .busreqWr x y => Sys2Proof.Machine.execBusreqWr x y s
  | .coresetWr x y => Sys2Proof.Machine.execCoresetWr x y s
  | .bankselWr x y => Sys2Proof.Machine.execBankselWr x y s
  | .tmssWr x y => Sys2Proof.Machine.execTmssWr x y s
  | .regOtherWr x y => Sys2Proof.Machine.execRegOtherWr x y s
  | .busreqRd x y => Sys2Proof.Machine.execBusreqRd x y s
  | .regOtherRd x y => Sys2Proof.Machine.execRegOtherRd x y s
  | .busreqAssert x => Sys2Proof.Machine.execBusreqAssert x s
  | .busreqRelease => Sys2Proof.Machine.execBusreqRelease s
  | .busreqUnexpected x y => Sys2Proof.Machine.execBusreqUnexpected x y s
  | .coresetAssert x => Sys2Proof.Machine.execCoresetAssert x s
  | .coresetRelease => Sys2Proof.Machine.execCoresetRelease s
  | .coresetReleaseAlt => Sys2Proof.Machine.execCoresetReleaseAlt s
  | .coresetUnexpected x y => Sys2Proof.Machine.execCoresetUnexpected x y s
  | .overlayCtrl x => Sys2Proof.Machine.execOverlayCtrl x s
  | .bankValue x => Sys2Proof.Machine.execBankValue x s
  | .eepStart => Sys2Proof.Machine.execEepStart s
  | .eepStop => Sys2Proof.Machine.execEepStop s
  | .standbyRise x y => Sys2Proof.Machine.execStandbyRise x y s
  | .standbyFall x y => Sys2Proof.Machine.execStandbyFall x y s
  | .gwaRise x y => Sys2Proof.Machine.execGwaRise x y s
  | .gwaFall x y => Sys2Proof.Machine.execGwaFall x y s
  | .writeRise x y => Sys2Proof.Machine.execWriteRise x y s
  | .writeFall x y => Sys2Proof.Machine.execWriteFall x y s
  | .readRise x y => Sys2Proof.Machine.execReadRise x y s
  | .readFall x y => Sys2Proof.Machine.execReadFall x y s
  | .waitStopRise x y => Sys2Proof.Machine.execWaitStopRise x y s
  | .waitStopFall x y => Sys2Proof.Machine.execWaitStopFall x y s
  | .eepNoneLow x y => Sys2Proof.Machine.execEepNoneLow x y s
  | .eepNoneHigh0 => Sys2Proof.Machine.execEepNoneHigh0 s
  | .eepNoneHigh1 => Sys2Proof.Machine.execEepNoneHigh1 s
  | .arbPen x y => Sys2Proof.Machine.execArbPen x y s
  | .arbTakepen x => Sys2Proof.Machine.execArbTakepen x s
  | .arbDefer x => Sys2Proof.Machine.execArbDefer x s
  | .arbDrain => Sys2Proof.Machine.execArbDrain s
  | .arbIrqMain => Sys2Proof.Machine.execArbIrqMain s
  | .arbIrqCo => Sys2Proof.Machine.execArbIrqCo s
  | .arbRunning => Sys2Proof.Machine.execArbRunning s
  | .arbFreeze x => Sys2Proof.Machine.execArbFreeze x s
  | .vdpSetlines x y => Sys2Proof.Machine.execVdpSetlines x y s
  | .cpuIack x y => Sys2Proof.Machine.execCpuIack x y s
  | .mapRd x y => Sys2Proof.Machine.execMapRd x y s
  | .mapWr x y => Sys2Proof.Machine.execMapWr x y s
  | .mapBanksel x y => Sys2Proof.Machine.execMapBanksel x y s
  | .linRd x y => Sys2Proof.Machine.execLinRd x y s
  | .linWr x y => Sys2Proof.Machine.execLinWr x y s
  | .linBanksel x y => Sys2Proof.Machine.execLinBanksel x y s
  | .pagRd x y => Sys2Proof.Machine.execPagRd x y s
  | .pagWr x y => Sys2Proof.Machine.execPagWr x y s
  | .pagBanksel x y => Sys2Proof.Machine.execPagBanksel x y s
  | .batRd x y => Sys2Proof.Machine.execBatRd x y s
  | .batWr x y => Sys2Proof.Machine.execBatWr x y s
  | .batBanksel x y => Sys2Proof.Machine.execBatBanksel x y s
  | .sramDev x y => Sys2Proof.Machine.execSramDev x y s
  | .eepromDev x y => Sys2Proof.Machine.execEepromDev x y s
  | .mapClose => Sys2Proof.Machine.execMapClose s
  | .eepStep x y => Sys2Proof.Machine.execEepStep x y s
  | .eepOut => Sys2Proof.Machine.execEepOut s
  | .dmaStart x => Sys2Proof.Machine.execDmaStart x s
  | .dmaSlotFill => Sys2Proof.Machine.execDmaSlotFill s
  | .dmaSlotCopy => Sys2Proof.Machine.execDmaSlotCopy s
  | .dmaSlotM68k => Sys2Proof.Machine.execDmaSlotM68k s
  | .dmaComplete => Sys2Proof.Machine.execDmaComplete s
  | .fifoPush x y z => Sys2Proof.Machine.execFifoPush x y z s
  | .fifoDrain => Sys2Proof.Machine.execFifoDrain s
  | .dmaStatus => Sys2Proof.Machine.execDmaStatus s
  | .dmaQslots x y => Sys2Proof.Machine.execDmaQslots x y s
  | .dmaReadyedge => Sys2Proof.Machine.execDmaReadyedge s
  | .schTick => Sys2Proof.Machine.execSchTick s
  | .schNewframe => Sys2Proof.Machine.execSchNewframe s
  | .hostNewframe => Sys2Proof.Machine.execHostNewframe s
  | .hostReset => Sys2Proof.Machine.execHostReset s
  | .hostClose => Sys2Proof.Machine.execHostClose s

end Sys2Proof.Machine
end

