-- ==== Sys2Proof/Machine/Fetch.lean ====
section
/-! DEFINITION. What the step performs next: the record at the head of the inbox, or with nothing presented the scheduler's next
tick (R270; log entry 1), and what is refused after a fatal error or after closing (R289, R313, U18). -/

namespace Sys2Proof.Machine

/-- The operations that keep a meaning after a fatal error (R289). -/
def afterFatal (i : Instr) : Bool :=
  match i with
  | .hostReset => true
  | .hostClose => true
  | _ => false

/-- Whether the session still admits an operation (U18). -/
def State.admitted (s : State) (i : Instr) (t : State) : Except Refusal (Instr × State) :=
  if s.closed then .error .sessionClosed
  else if s.fatal.isSome ∧ afterFatal i = false then .error .sessionFatal
  else .ok (i, t)

/-- The next operation, and the state without its record. -/
def State.fetch (s : State) : Except Refusal (Instr × State) :=
  match s.inbox with
  | [] => s.admitted .schTick s
  | r :: rest =>
    match decode r with
    | .error e => .error (.undecodable e)
    | .ok i => s.admitted i { s with inbox := rest }

/-- A record presented before every other one. -/
def State.present (s : State) (r : List Byte) : State := { s with inbox := r :: s.inbox }

end Sys2Proof.Machine
end

