-- ==== Sys2Proof/Machine/Step.lean ====
section
/-! DEFINITION. One step: fetch what is presented, then `exec` (R7: every step is one atomic operation). -/

namespace Sys2Proof.Machine

/-- One step of the machine. -/
def step (s : State) : Host.Outcome State Fault Refusal :=
  match s.fetch with
  | .error r => .refused r
  | .ok (i, t) => exec i t

/-- The state with a table word presented as the very next operation (log entries 1 and 2). -/
def State.withFetchWord (s : State) (nbits w : Nat) : State := s.present (tableRecord nbits w)

end Sys2Proof.Machine
end

