-- ==== Sys2Proof/Safety.lean ====
section
/-! DEFINITION. What claims are stated in: the invariants of the block (R174, R205, R231, R232, R275, and the canonical form of the
stores), the premises on collaborator answers, and runs of several operations. -/

namespace Sys2Proof.Machine

/-- The four stores are in canonical form and list no byte that does not exist (R17). -/
structure State.StoresOk (s : State) : Prop where
  ramWf : s.ram.wf
  ramBelow : s.ram.below 0x10000
  comemWf : s.comem.wf
  comemBelow : s.comem.below (s.cfg.comemMask.toNat + 1)
  sramWf : s.sram.wf
  sramBelow : ∀ o, s.cfg.overlay = some o → s.sram.below (BusConfig.sramSize o)
  eepWf : s.eep.wf
  eepBelow : s.eep.below s.cfg.eepromSize

/-- The engine's invariants (R232). -/
structure State.DmaOk (s : State) : Prop where
  busy : s.dma.busyFlag = (s.dma.mode != .none)
  length : 0 < s.dma.lengthCounter ↔ s.dma.mode ≠ .none
  fifo : s.dma.fifoQueue.length ≤ s.cfg.fifoCapacity
  phase : s.dma.mode = .none ∨ s.dma.mode = .fill → s.dma.slotPhase = false

/-- The EEPROM's invariants (R205). -/
structure State.EepromOk (s : State) : Prop where
  cycle : s.eeprom.bitCounter ≤ 9
  idle : s.eeprom.state = .standby ∨ s.eeprom.state = .waitStop → s.eeprom.bitCounter = 0

/-- No device is overdue (R275). -/
structure State.SchedOk (s : State) : Prop where
  main : s.sched.masterTick ≤ s.sched.nextMain
  co : s.sched.masterTick ≤ s.sched.nextCo
  vdp : s.sched.masterTick ≤ s.sched.nextVdp
  audio : s.sched.masterTick ≤ s.sched.nextAudio

/-- The invariant every step keeps. -/
structure State.Inv (s : State) : Prop where
  cfg : s.cfg.ok = true
  stores : s.StoresOk
  dma : s.DmaOk
  eeprom : s.EepromOk
  sched : s.SchedOk
  variant : s.mapper.variant = .battery ↔ s.cfg.overlay.isSome = true

/-- A deferred write waits only while the VDP is not ready (R231). -/
def State.DeferOk (s : State) : Prop := s.deferredQueue ≠ [] → s.vdpReady = false

/-- The VDP's next port answer starts nothing, or a transfer R221 gives a meaning (U14). -/
def State.AnswerLegal (s : State) : Prop :=
  ∀ o, s.portAnswer.start = some o → 1 ≤ o.length ∧ s.dma.mode = .none

/-- The VDP's next `n` port answers start no transfer. -/
def State.AnswersStartNothing (s : State) (n : Nat) : Prop :=
  ∀ k, k < n → ((s.inputs.port.drop k).headD (Config.freePortAnswer (s.draws + k))).start = none

/-- The DATA-port writes among queued writes: each is one place of the FIFO when it is replayed (R115, R253). -/
def dataWrites (q : List DeferredWrite) : List DeferredWrite := q.filter (fun e => vdpOffsetOf e.addr == .data)

/-- A queued write whose offset has a writable port (R115). -/
def reachesPort (e : DeferredWrite) : Bool := vdpOffsetOf e.addr == .data || vdpOffsetOf e.addr == .control

/-- The queued writes that a drain takes to a port or defers again, in order (R115, R253). -/
def portWrites (q : List DeferredWrite) : List DeferredWrite := q.filter reachesPort

/-- The events of the queued writes that have no writable port, in order: a drain drops them (R115, R253). -/
def dropEvents (q : List DeferredWrite) : List Event :=
  (q.filter (fun e => !reachesPort e)).map (fun e => ⟨.vdpUnexpectedPort, .addr e.addr⟩)

/-- The event of a drain that left writes waiting, and none where it left none (R254). -/
def redeferEvents (left : List DeferredWrite) : List Event :=
  if left = [] then [] else [⟨.redeferral, .count left.length⟩]

/-- The lines the EEPROM saw last (R78). -/
def State.LinesAre (s : State) (clock data : Bool) : Prop := s.eeprom.clockLine = clock ∧ s.eeprom.dataLine = data

/-- A byte read at an IO offset (R110, R76): the version register, or the IO collaborator's answer to one call. -/
def IoReadsByte (s : State) (o : Addr) (t : State) (b : Byte) : Prop :=
  (o ≤ 1#24 ∧ t = s ∧ b = s.cfg.version)
  ∨ (2#24 ≤ o ∧ b = s.inputs.ioRead.headD (Config.freeIoRead s.draws)
      ∧ t = { s with
          calls := s.calls ++ [.ioRead o]
          inputs := { s.inputs with ioRead := s.inputs.ioRead.tail }
          draws := s.draws + 1 })

/-- A byte written at an IO offset (R111, R76): the version register is read-only, every other offset is the collaborator's. -/
def IoWritesByte (s : State) (o : Addr) (b : Byte) (t : State) : Prop :=
  (o ≤ 1#24 ∧ t = { s with log := s.log ++ [⟨.unexpectedWrite, .addrVal (0xA10000#24 + o) (b.setWidth 16)⟩] })
  ∨ (2#24 ≤ o ∧ t = { s with calls := s.calls ++ [.ioWrite o b] })

/-- The part of a VDP word that an access of this size at this address returns (R114, R72). -/
def laneOf (n : Width) (a : Addr) (w : Word) : BusDatum :=
  match n with
  | .word => .word w
  | .byte => if a &&& 1#24 = 0#24 then .byte (w.extractLsb' 8 8) else .byte (w.extractLsb' 0 8)

/-- What a port answer leaves of the engine beside its queue (R221): the started transfer loaded, or nothing changed. -/
def DmaAfter (d : DmaState) (start : Option DmaOperands) (e : DmaState) : Prop :=
  match start with
  | none => e = { d with fifoQueue := e.fifoQueue }
  | some o =>
    e = { mode := modeOf o.mode
          lengthCounter := o.length
          sourceAddress := o.source
          destinationAddress := o.destination
          fifoQueue := e.fifoQueue
          busyFlag := true
          target := if o.mode = .copy then .vram else o.target
          autoInc := o.autoInc
          fillValue := o.fillValue
          slotPhase := false
          copyLatch := d.copyLatch }

/-- The EEPROM's fields after a sample (R191 to R204), the word address stepping modulo the size `n`. -/
def EepAfter (n : Nat) (e : EepromState) (c d : Bool) (f : EepromState) : Prop :=
  -- the four lines are shifted in every case
  f.previousClockLine = e.clockLine ∧ f.previousDataLine = e.dataLine ∧ f.clockLine = c ∧ f.dataLine = d
  -- START and STOP, in every state
  ∧ (e.clockLine = true → e.dataLine = true → c = true → d = false →
      f.state = .getWordAddress ∧ f.bitCounter = 0 ∧ f.writeBuffer = 0#8
        ∧ f.addressRegister = e.addressRegister ∧ f.readWriteFlag = e.readWriteFlag)
  ∧ (e.clockLine = true → e.dataLine = false → c = true → d = true →
      f.state = .standby ∧ f.bitCounter = 0 ∧ f.writeBuffer = 0#8
        ∧ f.addressRegister = e.addressRegister ∧ f.readWriteFlag = e.readWriteFlag)
  -- no event, and clock edges in STANDBY and WAIT_STOP
  ∧ ((e.clockLine = false ∧ c = false) ∨ (e.clockLine = true ∧ c = true ∧ e.dataLine = d)
        ∨ (e.clockLine ≠ c ∧ (e.state = .standby ∨ e.state = .waitStop)) →
      f.state = e.state ∧ f.bitCounter = e.bitCounter ∧ f.writeBuffer = e.writeBuffer
        ∧ f.addressRegister = e.addressRegister ∧ f.readWriteFlag = e.readWriteFlag)
  -- RISE: the cycle number, and the bit of the sample
  ∧ (e.clockLine = false → c = true → e.state = .getWordAddress ∨ e.state = .write ∨ e.state = .read →
      f.state = e.state ∧ f.bitCounter = (if e.bitCounter < 9 then e.bitCounter + 1 else e.bitCounter)
        ∧ f.writeBuffer =
            (if e.state = .write ∧ e.bitCounter < 8 then
              BitVec.ofNat 8 (2 * e.writeBuffer.toNat + (if d = true then 1 else 0))
            else e.writeBuffer)
        ∧ (∀ k, k < 7 → f.addressRegister.getLsbD k =
            (if e.state = .getWordAddress ∧ e.bitCounter + 1 = 7 - k then d else e.addressRegister.getLsbD k))
        ∧ f.readWriteFlag = (if e.state = .getWordAddress ∧ e.bitCounter = 7 then d else e.readWriteFlag))
  -- FALL before the end of cycle 9
  ∧ (e.clockLine = true → c = false → e.bitCounter ≠ 9 →
      f.state = e.state ∧ f.bitCounter = e.bitCounter ∧ f.writeBuffer = e.writeBuffer
        ∧ f.addressRegister = e.addressRegister ∧ f.readWriteFlag = e.readWriteFlag)
  -- FALL that ends cycle 9
  ∧ (e.clockLine = true → c = false → e.bitCounter = 9 → e.state = .getWordAddress →
      f.state = (if e.readWriteFlag = true then .read else .write) ∧ f.bitCounter = 0 ∧ f.writeBuffer = 0#8
        ∧ f.addressRegister = e.addressRegister ∧ f.readWriteFlag = e.readWriteFlag)
  ∧ (e.clockLine = true → c = false → e.bitCounter = 9 → e.state = .write →
      f.state = .write ∧ f.bitCounter = 0 ∧ f.writeBuffer = 0#8
        ∧ f.addressRegister = BitVec.ofNat 7 ((e.addressRegister.toNat + 1) % n) ∧ f.readWriteFlag = e.readWriteFlag)
  ∧ (e.clockLine = true → c = false → e.bitCounter = 9 → e.state = .read →
      f.state = (if e.dataLine = true then .waitStop else .read) ∧ f.bitCounter = 0 ∧ f.writeBuffer = e.writeBuffer
        ∧ f.addressRegister =
            (if e.dataLine = true then e.addressRegister else BitVec.ofNat 7 ((e.addressRegister.toNat + 1) % n))
        ∧ f.readWriteFlag = e.readWriteFlag)

/-- The store indices a bus write of this datum at this address can touch, by the handler's index of the addressed byte and of the
byte after it; the second WORD of a LONG is at the address plus 2 (R43). -/
def touched (first next : Addr → Nat) (a : Addr) : BusDatum → List Nat
  | .byte _ => [first a]
  | .word _ => [first a, next a]
  | .long _ => [first a, next a, first (a + 2#24), next (a + 2#24)]

/-- A bus write of this datum at this address reaches a control register: the register of its own address, or for a LONG of the
address plus 2 (R43, R74). -/
def reachesReg (cfg : BusConfig) (r : RegSel) (a : Addr) : BusDatum → Prop
  | .byte _ => regSelOf cfg a = r
  | .word _ => regSelOf cfg a = r
  | .long _ => regSelOf cfg a = r ∨ regSelOf cfg (a + 2#24) = r

/-- A handler's size as a bus size. -/
def busSize : Width → Size
  | .byte => .byte
  | .word => .word

/-- The row of a region that reads (R102 to R117). -/
def readRow (g : Region) (n : Width) (a : Addr) : Instr :=
  match g with
  | .cart => .cartRd n a
  | .ram => .ramRd n a
  | .reserved => .rsvRd n a
  | .coCpu => .coRd n a
  | .io => .ioRd n a
  | .reg => .regRd n a
  | .vdp => .vdpRd n a
  | .unmapped => .unmappedRd n a

/-- The row of a region that writes. -/
def writeRow (g : Region) (a : Addr) (v : Datum) : Instr :=
  match g with
  | .cart => .cartWr a v
  | .ram => .ramWr a v
  | .reserved => .rsvWr a v
  | .coCpu => .coWr a v
  | .io => .ioWr a v
  | .reg => .regWr a v
  | .vdp => .vdpWr a v
  | .unmapped => .unmappedWr a v

/-- Several operations, one after the other, up to the first that stops. -/
def execAll : List Instr → State → Host.Outcome State Fault Refusal
  | [], s => .next s
  | i :: is, s =>
    match exec i s with
    | .next t => execAll is t
    | .fault f => .fault f
    | .refused r => .refused r

/-- One bit driven over the EEPROM's lines: set up, clock high, clock low (R81, EEP.BIT). -/
def lineBit (b : Bool) : List Instr := [.eepStep false b, .eepStep true b, .eepStep false b]

/-- A byte driven most significant bit first, then the acknowledge cycle (R197, R198). -/
def lineByte (b : Byte) : List Instr :=
  ([7, 6, 5, 4, 3, 2, 1, 0].map (fun k => lineBit (b.getLsbD k))).flatten ++ lineBit false

/-- One cycle in which the master reads the line (R202, EEP.R). -/
def lineRead : List Instr := [.eepStep false false, .eepStep true false, .eepOut, .eepStep false false]

/-- The row of DMA.SLOT in a transfer mode (R222 to R224). -/
def slotRowOf : DmaKind → Instr
  | .fill => .dmaSlotFill
  | .copy => .dmaSlotCopy
  | .m68kToVram => .dmaSlotM68k

/-- The operation a bus operation of the main CPU's instruction is (R271). -/
def mainOpInstr : MainOp → Instr
  | .read n addr => .memRead n addr
  | .write addr v => .memWrite addr v
  | .iack which => .cpuIack .main which

end Sys2Proof.Machine
end

