-- ==== Sys2Proof/Certificates/Slice0/Obligations.lean ====
section
/-! DEFINITION. The statements about the block, for the provers. Each docstring names the rules of spec/ it formalises; a clause
that rests on a choice of the model names its log entry. -/

open Sys2Proof Sys2Proof.Machine

/-! ## Records and decodes -/

/-- Every well-formed operation, with every operand it can have, is the one its record decodes to. The record layout is the
model's (log entry 2). -/
def Obligations.EncodeThenDecode : Prop :=
  ∀ i : Instr, i.wf = true → decode (encode i) = .ok i

/-- Records written out byte by byte, of every family of the table (log entry 2: row byte, then the operands of the row's
record shape, R70, R71, R77 to R79, each least significant byte first); what is no record is rejected by name, and what is
decoded is well-formed. -/
def Obligations.RecordsDecodeOrAreRejected : Prop :=
  decode [0#8, 2#8, 0x10#8, 0x00#8, 0xFF#8, 0x01#8] = .ok (.memRead .word 0x01FF0010#32)
  ∧ decode [1#8, 0x00#8, 0x00#8, 0xE0#8, 0x00#8, 4#8, 0x44#8, 0x33#8, 0x22#8, 0x11#8]
      = .ok (.memWrite 0x00E00000#32 (.long 0x11223344#32))
  ∧ decode [4#8, 1#8, 0x10#8, 0x00#8, 0xE0#8] = .ok (.ramRd .byte 0xE00010#24)
  ∧ decode [22#8, 0x00#8, 0x00#8, 0xC0#8, 2#8, 0x34#8, 0x12#8] = .ok (.vdpWrData 0xC00000#24 (.word 0x1234#16))
  ∧ decode [27#8, 0x00#8, 0x11#8, 0xA1#8, 0x00#8, 0x01#8] = .ok (.busreqWr 0xA11100#24 0x0100#16)
  ∧ decode [34#8, 0x00#8, 0x01#8] = .ok (.busreqAssert 0x0100#16)
  ∧ decode [43#8] = .ok .eepStart
  ∧ decode [49#8, 0#8, 1#8] = .ok (.writeRise false true)
  ∧ decode [60#8, 0x02#8, 0x00#8, 0xC0#8, 2#8, 0x22#8, 0x22#8] = .ok (.arbDefer ⟨0xC00002#24, .word 0x2222#16⟩)
  ∧ decode [58#8, 0#8, 0x03#8, 0x01#8] = .ok (.arbPen .main 0x103)
  ∧ decode [80#8, 0x10#8, 0x00#8, 0x20#8, 0#8, 2#8] = .ok (.sramDev 0x200010#24 (.read .word))
  ∧ decode [85#8, 1#8, 0x00#8, 0x00#8, 0x00#8, 0x00#8, 0x10#8, 0#8, 1#8, 0xEE#8, 4#8]
      = .ok (.dmaStart ⟨.fill, 4, 0#24, 0x1000#16, .vram, 1#8, 0xEE#8⟩)
  ∧ decode [90#8, 1#8, 0x34#8, 0x12#8, 0x78#8, 0x56#8] = .ok (.fifoPush .cram 0x1234#16 0x5678#16)
  ∧ decode [93#8, 1#8, 0#8] = .ok (.dmaQslots .h40 .active)
  ∧ decode [95#8] = .ok .schTick
  ∧ decode [98#8] = .ok .hostReset
  ∧ decode [] = .error .empty
  ∧ decode [4#8, 3#8, 0x10#8, 0x00#8, 0xE0#8] = .error .badField
  ∧ decode [98#8, 0#8] = .error .tooLong
  ∧ decode [4#8, 1#8, 0x10#8, 0x00#8, 0x10#8] = .error .notWellFormed
  ∧ (∀ (b : Byte) (bs : List Byte), 100 ≤ b.toNat → b ≠ 0xF8#8 → b ≠ 0xF9#8 → b ≠ 0xFA#8 →
      decode (b :: bs) = .error (.unknownRow b.toNat))
  ∧ (∀ (r : List Byte) (i : Instr), decode r = .ok i → i.wf = true)

/-- The words the opcode table itself numbers: every address, value and port offset that a row's match and mask take is read as
the first such row (R47, R74, R75, R77; the choice of the first row is log entry 2). It rests on the spec's own decisions D11
and D17 (log entry 30). -/
def Obligations.TableWordsDecode : Prop :=
  (∀ a : Addr, a &&& 0xE00000#24 = 0xE00000#24 → decodeTableWord 24 a.toNat = some (.ramRd .byte a))
  ∧ (∀ a : Addr, a &&& 0xFF0000#24 = 0xA00000#24 → decodeTableWord 24 a.toNat = some (.coRd .byte a))
  ∧ (∀ a : Addr, a &&& 0xFFFFE0#24 = 0xA10000#24 → decodeTableWord 24 a.toNat = some (.ioRd .byte a))
  ∧ (∀ a : Addr, a &&& 0xE00000#24 = 0xC00000#24 → decodeTableWord 24 a.toNat = some (.vdpRd .byte a))
  ∧ (∀ a : Addr, a &&& 0xFFFFFE#24 = 0xA11000#24 → decodeTableWord 24 a.toNat = some (.memmodeWr a 0#16))
  ∧ (∀ a : Addr, a &&& 0xFFFFFE#24 = 0xA11100#24 → decodeTableWord 24 a.toNat = some (.busreqWr a 0#16))
  ∧ (∀ a : Addr, a &&& 0xFFFFFE#24 = 0xA11200#24 → decodeTableWord 24 a.toNat = some (.coresetWr a 0#16))
  ∧ (∀ a : Addr, a &&& 0xFFFFF0#24 = 0xA130F0#24 → decodeTableWord 24 a.toNat = some (.bankselWr a 0#16))
  ∧ (∀ v : Word, v &&& 0x0100#16 = 0x0100#16 → decodeTableWord 16 v.toNat = some (.busreqAssert v))
  ∧ decodeTableWord 16 0x0000 = some .busreqRelease
  ∧ decodeTableWord 16 0x0001 = some .coresetReleaseAlt
  ∧ (∀ o : Byte, o &&& 0x1C#8 = 0x00#8 → decodeTableWord 8 o.toNat = some (.vdpRdData .byte (0xC00000#24 + o.setWidth 24)))
  ∧ (∀ o : Byte, o &&& 0x1C#8 = 0x04#8 → decodeTableWord 8 o.toNat = some (.vdpRdControl .byte (0xC00000#24 + o.setWidth 24)))

/-- The region map as ranges (R73): under the constraints between the parameters every address lies in exactly the region its
range says, whatever the order of the tests. It rests on the spec's own decision D17 (log entry 30). -/
def Obligations.RegionMap : Prop :=
  ∀ (cfg : BusConfig) (v : MapperVariant) (a : Addr), cfg.ok = true →
    (regionOf cfg v a = .cart ↔
      a ≤ cfg.romEnd ∨ (v = .battery ∧ ∃ o, cfg.overlay = some o ∧ o.lo ≤ a ∧ a ≤ o.hi))
    ∧ (regionOf cfg v a = .ram ↔ 0xE00000#24 ≤ a)
    ∧ (regionOf cfg v a = .reserved ↔
      cfg.romEnd < a ∧ a < 0xA00000#24 ∧ ¬ (v = .battery ∧ ∃ o, cfg.overlay = some o ∧ o.lo ≤ a ∧ a ≤ o.hi))
    ∧ (regionOf cfg v a = .coCpu ↔ 0xA00000#24 ≤ a ∧ a ≤ 0xA0FFFF#24)
    ∧ (regionOf cfg v a = .io ↔ 0xA10000#24 ≤ a ∧ a ≤ 0xA1001F#24)
    ∧ (regionOf cfg v a = .reg ↔ 0xA11000#24 ≤ a ∧ a ≤ 0xA130FF#24)
    ∧ (regionOf cfg v a = .vdp ↔ 0xC00000#24 ≤ a ∧ a ≤ cfg.vdpWinHi ∧ a < 0xE00000#24)
    ∧ (regionOf cfg v a = .unmapped ↔
      (0xA10020#24 ≤ a ∧ a ≤ 0xA10FFF#24) ∨ (0xA13100#24 ≤ a ∧ a ≤ 0xBFFFFF#24)
        ∨ (0xC00000#24 ≤ a ∧ cfg.vdpWinHi < a ∧ a < 0xE00000#24))

/-- The sub-decodes of the REG and VDP windows and of the lines as sets (R74, R75, R78): with the register addresses distinct
and outside the mapper-control range, each of the four registers (the lock register among them, where it has an address) is
selected by its own address and by nothing else, an address of the mapper-control range that is none of the three registers
tested before it is the mapper's, and what is left selects no register; each port has its offsets, and each of the sixteen line
tuples is one event. It rests on the spec's own decisions D11, D17 and D18 (log entry 30). -/
def Obligations.SubDecodes : Prop :=
  (∀ (cfg : BusConfig) (a : Addr), cfg.ok = true →
    (regSelOf cfg a = .memmode ↔ a &&& 0xFFFFFE#24 = cfg.addrMemmode)
    ∧ (regSelOf cfg a = .busreq ↔ a &&& 0xFFFFFE#24 = cfg.addrBusreq)
    ∧ (regSelOf cfg a = .coreset ↔ a &&& 0xFFFFFE#24 = cfg.addrCoreset)
    ∧ (a &&& 0xFFFFFE#24 ∉ [cfg.addrMemmode, cfg.addrBusreq, cfg.addrCoreset] →
        (regSelOf cfg a = .banksel ↔ cfg.bankselLo ≤ a ∧ a ≤ cfg.bankselHi))
    ∧ (regSelOf cfg a = .tmss ↔
        some (a &&& 0xFFFFFE#24) = cfg.addrTmss ∧ ¬ (cfg.bankselLo ≤ a ∧ a ≤ cfg.bankselHi))
    ∧ (regSelOf cfg a = .other ↔
        a &&& 0xFFFFFE#24 ∉ cfg.regAddrs ∧ ¬ (cfg.bankselLo ≤ a ∧ a ≤ cfg.bankselHi)))
  ∧ (∀ a : Addr,
    (vdpOffsetOf a = .data ↔ a &&& 0x1F#24 ≤ 0x03#24)
    ∧ (vdpOffsetOf a = .control ↔ 0x04#24 ≤ a &&& 0x1F#24 ∧ a &&& 0x1F#24 ≤ 0x07#24)
    ∧ (vdpOffsetOf a = .hv ↔ 0x08#24 ≤ a &&& 0x1F#24 ∧ a &&& 0x1F#24 ≤ 0x0E#24)
    ∧ (vdpOffsetOf a = .unexpected ↔ 0x0F#24 ≤ a &&& 0x1F#24))
  ∧ (∀ pc pd c d : Bool,
    (lineEventOf pc pd c d = .start ↔ pc = true ∧ pd = true ∧ c = true ∧ d = false)
    ∧ (lineEventOf pc pd c d = .stop ↔ pc = true ∧ pd = false ∧ c = true ∧ d = true)
    ∧ (lineEventOf pc pd c d = .rise ↔ pc = false ∧ c = true)
    ∧ (lineEventOf pc pd c d = .fall ↔ pc = true ∧ c = false)
    ∧ (lineEventOf pc pd c d = .none ↔ (pc = false ∧ c = false) ∨ (pc = true ∧ c = true ∧ pd = d)))

/-! ## The step -/

/-- A step runs the decoded operation: the record at the head of the inbox, a presented table word, or with nothing presented
the scheduler's tick (R7, R270; the inbox is log entry 1), wherever the session still admits the operation (R289, R313). -/
def Obligations.StepRunsTheDecodedOperation : Prop :=
  (∀ (s : State) (r : List Byte) (rest : List (List Byte)) (i : Instr),
    s.inbox = r :: rest → decode r = .ok i → s.closed = false →
    (s.fatal = none ∨ i = .hostReset ∨ i = .hostClose) → step s = exec i { s with inbox := rest })
  ∧ (∀ (s : State) (nbits w : Nat) (i : Instr),
    decodeTableWord nbits w = some i → s.closed = false → s.fatal = none → step (s.withFetchWord nbits w) = exec i s)
  ∧ (∀ s : State, s.inbox = [] → s.closed = false → s.fatal = none → step s = exec .schTick s)

/-- What a step refuses: a record that is no operation, any operation after the session is closed, and after a fatal error any
operation but HOST.RESET and HOST.CLOSE (R289, R313, R175, U18). The inbox and the record form are the model's choice (log
entries 1 and 2), the flag of a closed session too (log entry 14); R289's refusal rests on the spec's own decision D23 and
R313's on D43 (log entry 30). -/
def Obligations.StepRefusesAfterFatalOrClose : Prop :=
  (∀ (s : State) (r : List Byte) (rest : List (List Byte)) (e : Reject),
    s.inbox = r :: rest → decode r = .error e → step s = .refused (.undecodable e))
  ∧ (∀ (s : State) (r : List Byte) (rest : List (List Byte)) (i : Instr),
    s.inbox = r :: rest → decode r = .ok i → s.closed = true → step s = .refused .sessionClosed)
  ∧ (∀ (s : State) (r : List Byte) (rest : List (List Byte)) (i : Instr),
    s.inbox = r :: rest → decode r = .ok i → s.closed = false → s.fatal ≠ none → i ≠ .hostReset → i ≠ .hostClose →
      step s = .refused .sessionFatal)
  ∧ (∀ s : State, s.inbox = [] → s.closed = true → step s = .refused .sessionClosed)
  ∧ (∀ s : State, s.inbox = [] → s.closed = false → s.fatal ≠ none → step s = .refused .sessionFatal)

/-! ## RAM, reserved, unmapped -/

/-- RAM.RD and RAM.WR (R104, R105): the byte or the two bytes, the byte at the lower address first, each index masked on its
own; a read changes nothing, a write leaves every other byte of RAM and everything else unchanged. The byte order of a WORD is
the spec's decision D5, from general knowledge (log entry 29, PRESUMED), the wrap of its second byte is R104's own derivation,
and odd addresses run by D6 (log entry 11, DEDUCED). -/
def Obligations.RamAccess : Prop :=
  ∀ (s : State) (a : Addr) (v : Datum), s.region a = .ram →
    let i := (a &&& 0xFFFF#24).toNat
    let j := (i + 1) % 0x10000
    exec (.ramRd .byte a) s = .next { s with replies := s.replies ++ [.data (.byte (s.ramByte i))] }
    ∧ exec (.ramRd .word a) s = .next { s with replies := s.replies ++ [.data (.word (s.ramByte i ++ s.ramByte j))] }
    ∧ ∃ t, exec (.ramWr a v) s = .next t ∧ t = { s with ram := t.ram }
      ∧ ∀ k, t.ramByte k =
        match v with
        | .byte b => if k = i then b else s.ramByte k
        | .word w => if k = j then w.extractLsb' 0 8 else if k = i then w.extractLsb' 8 8 else s.ramByte k

/-- RAM mirroring (R48) with the round trip of S1: after a write, reads at any two RAM addresses with the same low 16 bits return
the same, and a read of the same size at a mirror of the written address returns what was written. -/
def Obligations.RamMirrors : Prop :=
  ∀ (s t : State) (a b c : Addr) (v : Datum) (n : Width),
    s.region a = .ram → s.region b = .ram → s.region c = .ram → b &&& 0xFFFF#24 = c &&& 0xFFFF#24 →
    exec (.ramWr a v) s = .next t →
    ∃ d : BusDatum,
      exec (.ramRd n b) t = .next { t with replies := t.replies ++ [.data d] }
      ∧ exec (.ramRd n c) t = .next { t with replies := t.replies ++ [.data d] }
      ∧ (b &&& 0xFFFF#24 = a &&& 0xFFFF#24 →
          (∀ x, v = .byte x → n = .byte → d = .byte x) ∧ (∀ x, v = .word x → n = .word → d = .word x))

/-- RSV.RD, RSV.WR, UNMAPPED.RD, UNMAPPED.WR (R106, R107, R116, R117): reads log and return all-ones of the access's width,
writes only log. -/
def Obligations.ReservedAndUnmapped : Prop :=
  ∀ (s : State) (a : Addr) (v : Datum),
    (s.region a = .reserved →
      exec (.rsvRd .byte a) s = .next { s with
        log := s.log ++ [⟨.reservedRead, .addr a⟩], replies := s.replies ++ [.data (.byte 0xFF#8)] }
      ∧ exec (.rsvRd .word a) s = .next { s with
        log := s.log ++ [⟨.reservedRead, .addr a⟩], replies := s.replies ++ [.data (.word 0xFFFF#16)] }
      ∧ exec (.rsvWr a v) s = .next { s with log := s.log ++ [⟨.reservedWrite, .addr a⟩] })
    ∧ (s.region a = .unmapped →
      exec (.unmappedRd .byte a) s = .next { s with
        log := s.log ++ [⟨.unmappedRead, .addr a⟩], replies := s.replies ++ [.data (.byte 0xFF#8)] }
      ∧ exec (.unmappedRd .word a) s = .next { s with
        log := s.log ++ [⟨.unmappedRead, .addr a⟩], replies := s.replies ++ [.data (.word 0xFFFF#16)] }
      ∧ exec (.unmappedWr a v) s = .next { s with log := s.log ++ [⟨.unmappedWrite, .addr a⟩] })

/-! ## The co-CPU window -/

/-- CO.RD (R108): the penalty is charged in every case; with access the byte, duplicated for a WORD; without it a logged 0. It
rests on the spec's own decisions D9 and D10 (log entry 30). -/
def Obligations.CoWindowRead : Prop :=
  ∀ (s : State) (a : Addr), s.region a = .coCpu →
    (s.coCpuBusRequested = true → s.coCpuResetAsserted = false →
      exec (.coRd .byte a) s = .next { s with
        penalty := ⟨s.penalty.main + s.cfg.coPenalty, s.penalty.co⟩
        replies := s.replies ++ [.data (.byte (s.comemByte (a &&& s.cfg.comemMask).toNat))] }
      ∧ exec (.coRd .word a) s = .next { s with
        penalty := ⟨s.penalty.main + s.cfg.coPenalty, s.penalty.co⟩
        replies := s.replies ++
          [.data (.word (s.comemByte (a &&& s.cfg.comemMask).toNat ++ s.comemByte (a &&& s.cfg.comemMask).toNat))] })
    ∧ (s.coCpuBusRequested = false ∨ s.coCpuResetAsserted = true →
      exec (.coRd .byte a) s = .next { s with
        penalty := ⟨s.penalty.main + s.cfg.coPenalty, s.penalty.co⟩
        log := s.log ++ [⟨.coNoOwnership, .addr a⟩]
        replies := s.replies ++ [.data (.byte 0#8)] }
      ∧ exec (.coRd .word a) s = .next { s with
        penalty := ⟨s.penalty.main + s.cfg.coPenalty, s.penalty.co⟩
        log := s.log ++ [⟨.coNoOwnership, .addr a⟩]
        replies := s.replies ++ [.data (.word 0#16)] })

/-- CO.WR (R109): with access the byte, of a WORD the high byte alone, is stored, and every other byte of `comem` is unchanged;
without access the write is dropped and logged; the penalty is charged in every case. It rests on the spec's own decisions D9
and D10 (log entry 30). -/
def Obligations.CoWindowWrite : Prop :=
  ∀ (s : State) (a : Addr) (v : Datum), s.region a = .coCpu →
    (s.coCpuBusRequested = true → s.coCpuResetAsserted = false →
      ∃ t, exec (.coWr a v) s = .next t
        ∧ t = { s with penalty := ⟨s.penalty.main + s.cfg.coPenalty, s.penalty.co⟩, comem := t.comem }
        ∧ ∀ i, t.comemByte i =
          if i = (a &&& s.cfg.comemMask).toNat then
            (match v with
              | .byte b => b
              | .word w => w.extractLsb' 8 8)
          else s.comemByte i)
    ∧ (s.coCpuBusRequested = false ∨ s.coCpuResetAsserted = true →
      exec (.coWr a v) s = .next { s with
        penalty := ⟨s.penalty.main + s.cfg.coPenalty, s.penalty.co⟩
        log := s.log ++ [⟨.coNoOwnership, .addr a⟩] })

/-! ## IO ports -/

/-- IO.RD and IO.WR (R110, R111, R76): offsets 0 and 1 are the read-only version register, every other one is the IO
collaborator's; a WORD is the offset and the next one modulo 0x20, the high byte first. It rests on the spec's own decision D16
(log entry 30). That the event of a version-register write holds the byte beside its address is R286's table (log entry 17). -/
def Obligations.IoPorts : Prop :=
  ∀ (s : State) (a : Addr), s.region a = .io →
    (∃ t b, IoReadsByte s (a - 0xA10000#24) t b
      ∧ exec (.ioRd .byte a) s = .next { t with replies := t.replies ++ [.data (.byte b)] })
    ∧ (∃ t1 b1 t2 b2, IoReadsByte s (a - 0xA10000#24) t1 b1
      ∧ IoReadsByte t1 ((a - 0xA10000#24 + 1#24) &&& 0x1F#24) t2 b2
      ∧ exec (.ioRd .word a) s = .next { t2 with replies := t2.replies ++ [.data (.word (b1 ++ b2))] })
    ∧ (∀ b, ∃ t, IoWritesByte s (a - 0xA10000#24) b t ∧ exec (.ioWr a (.byte b)) s = .next t)
    ∧ (∀ w : Word, ∃ t1 t2, IoWritesByte s (a - 0xA10000#24) (w.extractLsb' 8 8) t1
      ∧ IoWritesByte t1 ((a - 0xA10000#24 + 1#24) &&& 0x1F#24) (w.extractLsb' 0 8) t2
      ∧ exec (.ioWr a (.word w)) s = .next t2)

/-! ## SystemBus dispatch -/

/-- CART.RD and CART.WR hand the access to the mapper's contract (R102, R103), and the contract dispatches on the one active
variant at every size (R160). It rests on the spec's own decision D45 (log entry 30). That the contract's rows run at any
address is the model's choice (log entry 38). -/
def Obligations.CartAndContract : Prop :=
  (∀ (s : State) (a : Addr), s.region a = .cart →
    (∀ n, ∃ t, exec (.cartRd n a) s = .next t ∧ exec (.mapRd (busSize n) a) s = .next t)
    ∧ (∀ v, ∃ t, exec (.cartWr a v) s = .next t ∧ exec (.mapWr a v.toBus) s = .next t))
  ∧ (∀ (s : State) (a : Addr) (n : Size) (v : BusDatum) (val : Word),
    ∃ t u w, exec (.mapRd n a) s = .next t ∧ exec (.mapWr a v) s = .next u ∧ exec (.mapBanksel a val) s = .next w
      ∧ (s.mapper.variant = .linear →
          exec (.linRd n a) s = .next t ∧ exec (.linWr a v) s = .next u ∧ exec (.linBanksel a val) s = .next w)
      ∧ (s.mapper.variant = .paged →
          exec (.pagRd n a) s = .next t ∧ exec (.pagWr a v) s = .next u ∧ exec (.pagBanksel a val) s = .next w)
      ∧ (s.mapper.variant = .battery →
          exec (.batRd n a) s = .next t ∧ exec (.batWr a v) s = .next u ∧ exec (.batBanksel a val) s = .next w))

/-- MemRead (R100, R41, R43): the masked address selects one region once; a BYTE or a WORD is that region's row; a LONG is two
WORD reads by the same handler, bits 31:16 first, not decoded again; an address of the VDP window that fails the validity test
is logged once and answers all-ones. It completes on every address. It rests on the spec's own decision D7 (log entry 30). -/
def Obligations.BusReadDispatch : Prop :=
  ∀ (s : State) (addr : BitVec 32),
    (∀ n, ∃ t, exec (.memRead (busSize n) addr) s = .next t
      ∧ exec (readRow (s.region (addr.setWidth 24)) n (addr.setWidth 24)) s = .next t)
    ∧ (s.region (addr.setWidth 24) = .vdp → vdpValid s.cfg (addr.setWidth 24) = false →
      exec (.memRead .long addr) s = .next { s with
        log := s.log ++ [⟨.vdpInvalidRead, .addr (addr.setWidth 24)⟩]
        replies := s.replies ++ [.data (.long 0xFFFFFFFF#32)] })
    ∧ (¬ (s.region (addr.setWidth 24) = .vdp ∧ vdpValid s.cfg (addr.setWidth 24) = false) →
      ∃ (u1 u2 : State) (w1 w2 : Word),
        s.readHandler (s.region (addr.setWidth 24)) .word (addr.setWidth 24) = (u1, .word w1)
        ∧ u1.readHandler (s.region (addr.setWidth 24)) .word (addr.setWidth 24 + 2#24) = (u2, .word w2)
        ∧ exec (.memRead .word addr) s = .next { u1 with replies := u1.replies ++ [.data (.word w1)] }
        ∧ exec (.memRead .long addr) s = .next { u2 with replies := u2.replies ++ [.data (.long (w1 ++ w2))] })

/-- MemWrite (R101, R41, R43): the masked address selects one region once; a BYTE or a WORD is that region's row; a LONG is two
WORD writes to the same handler, bits 31:16 first, the second at the address plus 2; an invalid VDP address raises the fatal
error at every size and performs nothing else (R288). It rests on the spec's own decisions D7 and D23 (log entry 30). -/
def Obligations.BusWriteDispatch : Prop :=
  ∀ (s : State) (addr : BitVec 32),
    (∀ v : Datum, exec (.memWrite addr v.toBus) s
      = exec (writeRow (s.region (addr.setWidth 24)) (addr.setWidth 24) v) s)
    ∧ (∀ v : BusDatum, s.region (addr.setWidth 24) = .vdp → vdpValid s.cfg (addr.setWidth 24) = false →
      exec (.memWrite addr v) s = .next { s with
        fatal := some (.vdpInvalidWrite, addr.setWidth 24)
        replies := s.replies ++ [.error .vdpInvalidWrite (addr.setWidth 24)] })
    ∧ (∀ (l : Long) (u : State),
      ¬ (s.region (addr.setWidth 24) = .vdp ∧ vdpValid s.cfg (addr.setWidth 24) = false) →
      exec (.memWrite addr (.word (l.extractLsb' 16 16))) s = .next u →
      exec (.memWrite addr (.long l)) s
        = ofExcept (u.writeHandler (s.region (addr.setWidth 24)) (addr.setWidth 24 + 2#24) (.word (l.extractLsb' 0 16)))
      ∧ (u.region (addr.setWidth 24 + 2#24) = s.region (addr.setWidth 24) →
          (s.region (addr.setWidth 24) = .vdp → vdpValid u.cfg (addr.setWidth 24 + 2#24) = true) →
          exec (.memWrite addr (.long l)) s
            = exec (writeRow (s.region (addr.setWidth 24)) (addr.setWidth 24 + 2#24) (.word (l.extractLsb' 0 16))) u))

/-- The frame of every bus read (R100, R46): no store, no register, no queue, no protocol state changes, on any address at any
size; the log and the collaborator calls only grow, the main CPU's penalty grows by whole window charges, and exactly one datum
is returned. It rests on the spec's own decisions D7 and D10 (log entry 30). -/
def Obligations.BusReadFrame : Prop :=
  ∀ (s : State) (n : Size) (addr : BitVec 32),
    ∃ (t : State) (d : BusDatum) (k : Nat), exec (.memRead n addr) s = .next t
      ∧ t = { s with
          penalty := ⟨s.penalty.main + k * s.cfg.coPenalty, s.penalty.co⟩
          log := t.log
          calls := t.calls
          inputs := t.inputs
          draws := t.draws
          replies := s.replies ++ [.data d] }
      ∧ k ≤ 2 ∧ (s.region (addr.setWidth 24) ≠ .coCpu → k = 0)
      ∧ s.log <+: t.log ∧ s.calls <+: t.calls
      ∧ (s.region (addr.setWidth 24) ≠ .io → s.region (addr.setWidth 24) ≠ .vdp →
          t.calls = s.calls ∧ t.inputs = s.inputs ∧ t.draws = s.draws)

/-- Bus writes outside the VDP window complete on every address, at every size, and change only what their region holds; of a
store, only the bytes the access addresses: RAM at the masked address and the byte after it, the co-CPU memory at the one index
of each WORD, SRAM at the index in the overlay and the byte after it, the EEPROM at the word address it holds, and every other
byte reads as before; a LONG's second WORD is at the address plus 2 (R101, R46, R105, R109, R171, R198). In the VDP window a
BYTE or a WORD at a valid address completes while the VDP's answer starts nothing undefined, a LONG while neither of its two
answers starts a transfer, and a write of any size leaves every store and register of the block but the queue, the log and the
engine (R115). It rests on the spec's own decisions D7, D28, D33 and D36 (log entry 30). -/
def Obligations.BusWriteFrame : Prop :=
  ∀ (s : State) (addr : BitVec 32) (v : BusDatum),
    let a : Addr := addr.setWidth 24
    (s.region a ≠ .vdp → ∃ t, exec (.memWrite addr v) s = .next t
      ∧ (s.region a = .cart →
          t = { s with log := t.log, sram := t.sram, eep := t.eep, eeprom := t.eeprom }
          ∧ (s.mapper.variant ≠ .battery ∨ s.mapper.overlayMode ≠ .readWrite → t = { s with log := t.log })
          ∧ (∀ o, s.cfg.overlay = some o → o.kind = .sram →
              t = { s with log := t.log, sram := t.sram }
              ∧ ∀ k, k ∉ touched (sramIndex o) (sramIndexNext o) a v → t.sramByte k = s.sramByte k)
          ∧ (∀ o, s.cfg.overlay = some o → o.kind = .eeprom →
              t = { s with log := t.log, eep := t.eep, eeprom := t.eeprom }
              ∧ ∀ k, k ≠ s.eepIndex → t.eepByte k = s.eepByte k))
      ∧ (s.region a = .ram → t = { s with ram := t.ram }
          ∧ ∀ k, k ∉ touched ramIndex ramIndexNext a v → t.ramByte k = s.ramByte k)
      ∧ (s.region a = .reserved ∨ s.region a = .unmapped → t = { s with log := t.log })
      ∧ (s.region a = .coCpu → t = { s with penalty := t.penalty, log := t.log, comem := t.comem }
          ∧ ∀ k, k ∉ touched (comemIndex s.cfg) (comemIndex s.cfg) a v → t.comemByte k = s.comemByte k)
      ∧ (s.region a = .io → t = { s with log := t.log, calls := t.calls })
      ∧ (s.region a = .reg →
          t = { s with
            coCpuBusRequested := t.coCpuBusRequested
            coCpuResetAsserted := t.coCpuResetAsserted
            log := t.log
            mapper := t.mapper
            memoryMode := t.memoryMode
            tmssLatch := t.tmssLatch
            calls := t.calls })
      ∧ s.log <+: t.log)
    ∧ (s.region a = .vdp → vdpValid s.cfg a = true →
      (∀ d : Datum, s.AnswerLegal → ∃ t, exec (.memWrite addr d.toBus) s = .next t)
      ∧ (s.AnswersStartNothing 2 → ∃ t, exec (.memWrite addr v) s = .next t)
      ∧ (∀ t, exec (.memWrite addr v) s = .next t →
          t = { s with
            deferredQueue := t.deferredQueue
            log := t.log
            dma := t.dma
            inputs := t.inputs
            draws := t.draws
            calls := t.calls }))

/-! ## The VDP ports -/

/-- VDP reads of a valid address (R114): the data port, the control port, the two counters as one word, or no port; a BYTE is
the word's byte of the address's parity; VDP.RD is the row of the port. It rests on the spec's own decisions D18 and D19 (log
entry 30). -/
def Obligations.VdpPortReads : Prop :=
  ∀ (s : State) (n : Width) (a : Addr), s.region a = .vdp → vdpValid s.cfg a = true →
    (vdpOffsetOf a = .data → ∃ w t, w = s.inputs.dataPort.headD (Config.freeDataPort s.draws)
      ∧ t = { s with
          calls := s.calls ++ [.readDataPort]
          inputs := { s.inputs with dataPort := s.inputs.dataPort.tail }
          draws := s.draws + 1
          replies := s.replies ++ [.data (laneOf n a w)] }
      ∧ exec (.vdpRdData n a) s = .next t ∧ exec (.vdpRd n a) s = .next t)
    ∧ (vdpOffsetOf a = .control → ∃ w t, w = s.inputs.control.headD (Config.freeControl s.draws)
      ∧ t = { s with
          calls := s.calls ++ [.readControl]
          inputs := { s.inputs with control := s.inputs.control.tail }
          draws := s.draws + 1
          replies := s.replies ++ [.data (laneOf n a w)] }
      ∧ exec (.vdpRdControl n a) s = .next t ∧ exec (.vdpRd n a) s = .next t)
    ∧ (vdpOffsetOf a = .hv → ∃ v h t, v = s.inputs.vCounter.headD (Config.freeVCounter s.draws)
      ∧ h = s.inputs.hCounter.headD (Config.freeHCounter (s.draws + 1))
      ∧ t = { s with
          calls := s.calls ++ [.getVCounter] ++ [.getHCounter]
          inputs := { s.inputs with vCounter := s.inputs.vCounter.tail, hCounter := s.inputs.hCounter.tail }
          draws := s.draws + 1 + 1
          replies := s.replies ++ [.data (laneOf n a (v ++ h))] }
      ∧ exec (.vdpRdHv n a) s = .next t ∧ exec (.vdpRd n a) s = .next t)
    ∧ (vdpOffsetOf a = .unexpected → ∃ t, t = { s with
          log := s.log ++ [⟨.vdpUnexpectedPort, .addr a⟩]
          replies := s.replies ++ [.data (laneOf n a 0xFFFF#16)] }
      ∧ exec (.vdpRdUnexpected n a) s = .next t ∧ exec (.vdpRd n a) s = .next t)

/-- An invalid VDP address (R100, R101, R288): a read logs and answers all-ones of its width, a write raises the fatal error and
changes nothing but the error and its return (the single return is log entry 13). It rests on the spec's own decisions D17 and
D23 (log entry 30). -/
def Obligations.VdpInvalidAddress : Prop :=
  ∀ (s : State) (a : Addr) (v : Datum), s.region a = .vdp → vdpValid s.cfg a = false →
    exec (.vdpRd .byte a) s = .next { s with
      log := s.log ++ [⟨.vdpInvalidRead, .addr a⟩], replies := s.replies ++ [.data (.byte 0xFF#8)] }
    ∧ exec (.vdpRd .word a) s = .next { s with
      log := s.log ++ [⟨.vdpInvalidRead, .addr a⟩], replies := s.replies ++ [.data (.word 0xFFFF#16)] }
    ∧ exec (.vdpWr a v) s = .next { s with
      fatal := some (.vdpInvalidWrite, a), replies := s.replies ++ [.error .vdpInvalidWrite a] }

/-- A data- or control-port write while the VDP is ready (R115, R226): one word is handed to the port, a BYTE mirrored; a data
word is exactly one push; the transfer the VDP's answer starts is loaded as R221 says (log entry 21); nothing else changes. An
answer that R221 gives no meaning refuses the write (U14). It rests on the spec's own decisions D37 and D38 (log entry 30). -/
def Obligations.VdpPortForward : Prop :=
  ∀ (s : State) (a : Addr) (v : Datum), s.region a = .vdp → vdpValid s.cfg a = true → s.vdpReady = true →
    let ans := s.inputs.port.headD (Config.freePortAnswer s.draws)
    let w : Word := match v with
      | .byte b => b ++ b
      | .word x => x
    (vdpOffsetOf a = .data →
      (s.AnswerLegal → ∃ t, exec (.vdpWrData a v) s = .next t ∧ exec (.vdpWr a v) s = .next t
        ∧ t = { s with
            calls := s.calls ++ [.writeVdpPortWord .data w]
            inputs := { s.inputs with port := s.inputs.port.tail }
            draws := s.draws + 1
            dma := { t.dma with fifoQueue := s.dma.fifoQueue ++ [⟨ans.target, ans.addr, w⟩] } }
        ∧ DmaAfter s.dma ans.start t.dma)
      ∧ (¬ s.AnswerLegal → exec (.vdpWrData a v) s = .refused .dmaStartUndefined
        ∧ exec (.vdpWr a v) s = .refused .dmaStartUndefined))
    ∧ (vdpOffsetOf a = .control →
      (s.AnswerLegal → ∃ t, exec (.vdpWrControl a v) s = .next t ∧ exec (.vdpWr a v) s = .next t
        ∧ t = { s with
            calls := s.calls ++ [.writeVdpPortWord .control w]
            inputs := { s.inputs with port := s.inputs.port.tail }
            draws := s.draws + 1
            dma := { t.dma with fifoQueue := s.dma.fifoQueue } }
        ∧ DmaAfter s.dma ans.start t.dma)
      ∧ (¬ s.AnswerLegal → exec (.vdpWrControl a v) s = .refused .dmaStartUndefined
        ∧ exec (.vdpWr a v) s = .refused .dmaStartUndefined))

/-- Deferral (R118, R252): while the FIFO is full or a memory-to-VRAM transfer is active, a data- or control-port write of a
valid address is queued at the end with its address, its un-mirrored value and its size, and nothing else changes. Writes to the
HV counter or to no port are logged and dropped, ready or not (R115). It rests on the spec's own decisions D18 and D20 (log
entry 30). -/
def Obligations.VdpWriteDeferredOrDropped : Prop :=
  ∀ (s : State) (a : Addr) (v : Datum), s.region a = .vdp → vdpValid s.cfg a = true →
    (vdpOffsetOf a = .data ∨ vdpOffsetOf a = .control →
      s.dma.fifoQueue.length = s.cfg.fifoCapacity ∨ s.dma.mode = .m68kToVram →
      ∃ t, t = { s with deferredQueue := s.deferredQueue ++ [⟨a, v⟩] }
        ∧ exec (.vdpWrDeferred a v) s = .next t ∧ exec (.vdpWr a v) s = .next t
        ∧ (vdpOffsetOf a = .data → exec (.vdpWrData a v) s = .next t)
        ∧ (vdpOffsetOf a = .control → exec (.vdpWrControl a v) s = .next t))
    ∧ (vdpOffsetOf a = .hv ∨ vdpOffsetOf a = .unexpected →
      ∃ t, t = { s with log := s.log ++ [⟨.vdpUnexpectedPort, .addr a⟩] }
        ∧ exec (.vdpWrUnexpected a v) s = .next t ∧ exec (.vdpWr a v) s = .next t)

/-! ## Control registers -/

/-- MEMMODE.WR, TMSS.WR, REG.OTHER.WR (R140, R144, R145): the two latches take the value, the lock write is logged as accepted,
a write that selects no register only logs. It rests on the spec's own decisions D14 and D42 (log entry 30). -/
def Obligations.LatchRegisters : Prop :=
  ∀ (s : State) (a : Addr) (val : Word), s.region a = .reg →
    (regSelOf s.cfg a = .memmode → exec (.memmodeWr a val) s = .next { s with memoryMode := val })
    ∧ (regSelOf s.cfg a = .tmss →
      exec (.tmssWr a val) s = .next { s with tmssLatch := val, log := s.log ++ [⟨.tmssWrite, .addrVal a val⟩] })
    ∧ (regSelOf s.cfg a = .other →
      exec (.regOtherWr a val) s = .next { s with log := s.log ++ [⟨.unexpectedWrite, .addrVal a val⟩] })

/-- BUSREQ.WR and its value rows (R141, R77): bit 8 asserts, zero releases, anything else is logged and changes nothing. -/
def Obligations.BusRequestWrite : Prop :=
  ∀ (s : State) (a : Addr) (val : Word),
    (val &&& 0x0100#16 ≠ 0#16 → exec (.busreqAssert val) s = .next { s with coCpuBusRequested := true })
    ∧ exec .busreqRelease s = .next { s with coCpuBusRequested := false }
    ∧ (s.region a = .reg → regSelOf s.cfg a = .busreq →
      (val &&& 0x0100#16 ≠ 0#16 → exec (.busreqWr a val) s = .next { s with coCpuBusRequested := true })
      ∧ (val = 0#16 → exec (.busreqWr a val) s = .next { s with coCpuBusRequested := false })
      ∧ (val &&& 0x0100#16 = 0#16 → val ≠ 0#16 → ∃ t,
        t = { s with log := s.log ++ [⟨.unexpectedValue, .addrVal a val⟩] }
        ∧ exec (.busreqWr a val) s = .next t ∧ exec (.busreqUnexpected a val) s = .next t))

/-- CORESET.WR and its value rows (R142, R77): zero asserts reset and resets the co-CPU while the bus is requested and is logged
otherwise, 0x0100 and 0x0001 release it, anything else is logged. It rests on the spec's own decision D14 (log entry 30). -/
def Obligations.CoResetWrite : Prop :=
  ∀ (s : State) (a : Addr) (val : Word),
    exec .coresetRelease s = .next { s with coCpuResetAsserted := false }
    ∧ exec .coresetReleaseAlt s = .next { s with coCpuResetAsserted := false }
    ∧ (s.region a = .reg → regSelOf s.cfg a = .coreset →
      (s.coCpuBusRequested = true → ∃ t,
        t = { s with coCpuResetAsserted := true, calls := s.calls ++ [.coReset] }
        ∧ exec (.coresetWr a 0#16) s = .next t ∧ exec (.coresetAssert a) s = .next t)
      ∧ (s.coCpuBusRequested = false → ∃ t,
        t = { s with log := s.log ++ [⟨.unexpectedValue, .addrVal a 0#16⟩] }
        ∧ exec (.coresetWr a 0#16) s = .next t ∧ exec (.coresetAssert a) s = .next t)
      ∧ (val = 0x0100#16 ∨ val = 0x0001#16 → exec (.coresetWr a val) s = .next { s with coCpuResetAsserted := false })
      ∧ (val ≠ 0#16 → val ≠ 0x0100#16 → val ≠ 0x0001#16 → ∃ t,
        t = { s with log := s.log ++ [⟨.unexpectedValue, .addrVal a val⟩] }
        ∧ exec (.coresetWr a val) s = .next t ∧ exec (.coresetUnexpected a val) s = .next t))

/-- Reads of the REG window (R146, R147, R112): the bus-request register shows the missing access in bit 8, every other register
logs and answers all-ones (both values are the spec's own decisions, D15; log entry 18). -/
def Obligations.RegisterRead : Prop :=
  ∀ (s : State) (a : Addr) (n : Width), s.region a = .reg →
    (regSelOf s.cfg a = .busreq → ∃ t,
      t = { s with replies := s.replies ++ [.data (laneOf n a
        (if s.coCpuBusRequested = true ∧ s.coCpuResetAsserted = false then 0x0000#16 else 0x0100#16))] }
      ∧ exec (.busreqRd n a) s = .next t ∧ exec (.regRd n a) s = .next t)
    ∧ (regSelOf s.cfg a ≠ .busreq → ∃ t,
      t = { s with log := s.log ++ [⟨.unexpectedRead, .addr a⟩], replies := s.replies ++ [.data (laneOf n a 0xFFFF#16)] }
      ∧ exec (.regOtherRd n a) s = .next t ∧ exec (.regRd n a) s = .next t)

/-- REG.WR (R113, R143, R148): the register is selected by the address, and takes a WORD as it is and a BYTE zero-extended, from
either byte address; a mapper-control write is the contract's bank-select write. It rests on the spec's own decisions D11 and
D13 (log entry 30). -/
def Obligations.RegisterWriteDispatch : Prop :=
  ∀ (s : State) (a : Addr) (v : Datum), s.region a = .reg →
    let val : Word := match v with
      | .byte b => b.setWidth 16
      | .word w => w
    ∃ t, exec (.regWr a v) s = .next t
      ∧ (regSelOf s.cfg a = .memmode → exec (.memmodeWr a val) s = .next t)
      ∧ (regSelOf s.cfg a = .busreq → exec (.busreqWr a val) s = .next t)
      ∧ (regSelOf s.cfg a = .coreset → exec (.coresetWr a val) s = .next t)
      ∧ (regSelOf s.cfg a = .banksel → exec (.bankselWr a val) s = .next t ∧ exec (.mapBanksel a val) s = .next t)
      ∧ (regSelOf s.cfg a = .tmss → exec (.tmssWr a val) s = .next t)
      ∧ (regSelOf s.cfg a = .other → exec (.regOtherWr a val) s = .next t)

/-- Only the two ownership registers, a unit of work or a reset can change the ownership pair (R11, R141, R142, R149): over
every operation of the table; a bus write changes a bit only where its address, or for a LONG its address plus 2, selects that
bit's register. -/
def Obligations.OwnershipChanges : Prop :=
  ∀ (i : Instr) (s t : State), exec i s = .next t →
    (t.coCpuBusRequested ≠ s.coCpuBusRequested →
      (∃ addr v, i = .memWrite addr v ∧ s.region (addr.setWidth 24) = .reg ∧ reachesReg s.cfg .busreq (addr.setWidth 24) v)
        ∨ (∃ a v, i = .regWr a v ∧ s.region a = .reg ∧ regSelOf s.cfg a = .busreq)
        ∨ (∃ a v, i = .busreqWr a v ∧ s.region a = .reg ∧ regSelOf s.cfg a = .busreq)
        ∨ (∃ v, i = .busreqAssert v) ∨ i = .busreqRelease ∨ i = .schTick ∨ i = .hostReset)
    ∧ (t.coCpuResetAsserted ≠ s.coCpuResetAsserted →
      (∃ addr v, i = .memWrite addr v ∧ s.region (addr.setWidth 24) = .reg ∧ reachesReg s.cfg .coreset (addr.setWidth 24) v)
        ∨ (∃ a v, i = .regWr a v ∧ s.region a = .reg ∧ regSelOf s.cfg a = .coreset)
        ∨ (∃ a v, i = .coresetWr a v ∧ s.region a = .reg ∧ regSelOf s.cfg a = .coreset)
        ∨ (∃ a, i = .coresetAssert a ∧ s.region a = .reg ∧ regSelOf s.cfg a = .coreset)
        ∨ i = .coresetRelease ∨ i = .coresetReleaseAlt ∨ i = .schTick ∨ i = .hostReset)

/-! ## BankMapper -/

/-- LinearIndex (R161): the identity below the size; above it the address masked by the smallest power of two not below the
size, folded once by the size minus one; always an index of the ROM. It rests on the spec's own decision D26 (log entry 30). -/
def Obligations.LinearIndex : Prop :=
  ∀ n p : Nat, 1 ≤ n →
    linearIndex n p < n
    ∧ (p < n → linearIndex n p = p)
    ∧ ∃ k, n ≤ 2 ^ k ∧ (∀ j, n ≤ 2 ^ j → k ≤ j)
      ∧ (n ≤ p → p % 2 ^ k ≤ n - 1 → linearIndex n p = p % 2 ^ k)
      ∧ (n ≤ p → n - 1 < p % 2 ^ k → linearIndex n p = p % 2 ^ k - (n - 1))

/-- The linear variant (R162, R163, R164): reads byte by byte through LinearIndex, writes ignored and logged once for each WORD,
the first bank-select write upgrades to PAGED and sets the bank. It rests on the spec's own decisions D26 and, for a LONG, D45
(log entries 30 and 31); that BANK.VALUE performs the upgrade is DEDUCED (log entry 33), and that the rows run at any address is
the model's choice (log entry 38). -/
def Obligations.LinearVariant : Prop :=
  ∀ (s : State) (a : Addr) (val : Word), s.mapper.variant = .linear →
    let f := fun (x : Addr) => s.cfg.romByte (linearIndex s.cfg.romSize x.toNat)
    exec (.linRd .byte a) s = .next { s with replies := s.replies ++ [.data (.byte (f a))] }
    ∧ exec (.linRd .word a) s = .next { s with replies := s.replies ++ [.data (.word (f a ++ f (a + 1#24)))] }
    ∧ exec (.linRd .long a) s = .next { s with replies := s.replies ++
        [.data (.long ((f a ++ f (a + 1#24) : Word) ++ (f (a + 2#24) ++ f (a + 2#24 + 1#24) : Word)))] }
    ∧ (∀ b, exec (.linWr a (.byte b)) s = .next { s with log := s.log ++ [⟨.romWrite, .addr a⟩] })
    ∧ (∀ w, exec (.linWr a (.word w)) s = .next { s with log := s.log ++ [⟨.romWrite, .addr a⟩] })
    ∧ (∀ l, exec (.linWr a (.long l)) s
        = .next { s with log := s.log ++ [⟨.romWrite, .addr a⟩] ++ [⟨.romWrite, .addr (a + 2#24)⟩] })
    ∧ ∃ t, t = { s with mapper := { s.mapper with
          variant := .paged, bankRegister := (val &&& s.cfg.bankValueMask).toNat } }
        ∧ exec (.linBanksel a val) s = .next t ∧ exec (.bankValue val) s = .next t

/-- The paged variant (R165, R166, R167): each byte whose address lies in the window comes from the selected page, every other
one as in the linear variant; writes are ignored and logged; every mapper-control address writes the one register. It rests on
the spec's own decisions D26, D27 and, for a LONG, D45 (log entries 30 and 31); that the rows run at any address is the model's
choice (log entry 38). -/
def Obligations.PagedVariant : Prop :=
  ∀ (s : State) (a : Addr) (val : Word), s.mapper.variant = .paged →
    let f := fun (x : Addr) => s.cfg.romByte (linearIndex s.cfg.romSize
      (if s.cfg.bankWindowBase ≤ x.toNat ∧ x.toNat < s.cfg.bankWindowBase + s.cfg.pageSize then
        s.mapper.bankRegister * s.cfg.pageSize + (x.toNat - s.cfg.bankWindowBase)
      else x.toNat))
    exec (.pagRd .byte a) s = .next { s with replies := s.replies ++ [.data (.byte (f a))] }
    ∧ exec (.pagRd .word a) s = .next { s with replies := s.replies ++ [.data (.word (f a ++ f (a + 1#24)))] }
    ∧ exec (.pagRd .long a) s = .next { s with replies := s.replies ++
        [.data (.long ((f a ++ f (a + 1#24) : Word) ++ (f (a + 2#24) ++ f (a + 2#24 + 1#24) : Word)))] }
    ∧ (∀ b, exec (.pagWr a (.byte b)) s = .next { s with log := s.log ++ [⟨.romWrite, .addr a⟩] })
    ∧ (∀ w, exec (.pagWr a (.word w)) s = .next { s with log := s.log ++ [⟨.romWrite, .addr a⟩] })
    ∧ (∀ l, exec (.pagWr a (.long l)) s
        = .next { s with log := s.log ++ [⟨.romWrite, .addr a⟩] ++ [⟨.romWrite, .addr (a + 2#24)⟩] })
    ∧ ∃ t, t = { s with mapper := { s.mapper with bankRegister := (val &&& s.cfg.bankValueMask).toNat } }
        ∧ exec (.pagBanksel a val) s = .next t ∧ exec (.bankValue val) s = .next t

/-- The battery variant (R168, R169): inside an enabled overlay the device answers, elsewhere the ROM; writes reach the device
only in READ_WRITE and are logged and dropped otherwise; a LONG is two WORD accesses, the second on its own address. It rests on
the spec's own decisions D26, D28, D29 and D45 (log entry 30). That the contract's rows run at any address is the model's choice
(log entry 38). -/
def Obligations.BatteryVariant : Prop :=
  ∀ (s : State) (a : Addr) (n : Width) (v : Datum), s.mapper.variant = .battery →
    let f := fun (x : Addr) => s.cfg.romByte (linearIndex s.cfg.romSize x.toNat)
    (s.cfg.inOverlay a = true → s.mapper.overlayMode ≠ .disabled →
      (s.cfg.hasSram = true → ∃ t, exec (.batRd (busSize n) a) s = .next t ∧ exec (.sramDev a (.read n)) s = .next t)
      ∧ (s.cfg.hasEeprom = true → ∃ t, exec (.batRd (busSize n) a) s = .next t ∧ exec (.eepromDev a (.read n)) s = .next t))
    ∧ (s.cfg.inOverlay a = false ∨ s.mapper.overlayMode = .disabled →
      exec (.batRd .byte a) s = .next { s with replies := s.replies ++ [.data (.byte (f a))] }
      ∧ exec (.batRd .word a) s = .next { s with replies := s.replies ++ [.data (.word (f a ++ f (a + 1#24)))] })
    ∧ (s.cfg.inOverlay a = true → s.mapper.overlayMode = .readWrite →
      (s.cfg.hasSram = true → ∃ t, exec (.batWr a v.toBus) s = .next t ∧ exec (.sramDev a (.write v)) s = .next t)
      ∧ (s.cfg.hasEeprom = true → ∃ t, exec (.batWr a v.toBus) s = .next t ∧ exec (.eepromDev a (.write v)) s = .next t))
    ∧ (s.cfg.inOverlay a = true → s.mapper.overlayMode = .readOnly →
      exec (.batWr a v.toBus) s = .next { s with log := s.log ++ [⟨.overlayWriteProtected, .addr a⟩] })
    ∧ (s.cfg.inOverlay a = false ∨ s.mapper.overlayMode = .disabled →
      exec (.batWr a v.toBus) s = .next { s with log := s.log ++ [⟨.romWrite, .addr a⟩] })
    ∧ (∀ l : Long, ∃ t u, exec (.batWr a (.word (l.extractLsb' 16 16))) s = .next t
      ∧ exec (.batWr (a + 2#24) (.word (l.extractLsb' 0 16))) t = .next u ∧ exec (.batWr a (.long l)) s = .next u)
    ∧ (∃ w1 w2 : Word, exec (.batRd .word a) s = .next { s with replies := s.replies ++ [.data (.word w1)] }
      ∧ exec (.batRd .word (a + 2#24)) s = .next { s with replies := s.replies ++ [.data (.word w2)] }
      ∧ exec (.batRd .long a) s = .next { s with replies := s.replies ++ [.data (.long (w1 ++ w2))] })

/-- Mapper-control writes in the battery variant (R170): the overlay control register, at either byte address, sets the mode
from bit 0 (enable) and bit 1 (write-protect); any other one is logged; the variant stays. It rests on the spec's own decision
D28 (log entry 30). That the contract's rows run at any address is the model's choice (log entry 38). -/
def Obligations.OverlayControl : Prop :=
  ∀ (s : State) (a : Addr) (val : Word), s.mapper.variant = .battery →
    let mode : OverlayMode :=
      if val &&& 1#16 = 0#16 then .disabled else if val &&& 2#16 = 0#16 then .readWrite else .readOnly
    exec (.overlayCtrl val) s = .next { s with mapper := { s.mapper with overlayMode := mode } }
    ∧ (a &&& 0xFFFFFE#24 = s.cfg.addrOverlayCtrl →
      exec (.batBanksel a val) s = .next { s with mapper := { s.mapper with overlayMode := mode } })
    ∧ (a &&& 0xFFFFFE#24 ≠ s.cfg.addrOverlayCtrl →
      exec (.batBanksel a val) s = .next { s with log := s.log ++ [⟨.unexpectedWrite, .addrVal a val⟩] })

/-- The SRAM device (R171): inside the overlay a read returns the addressed byte or the addressed byte and the next one,
wrapping at the store's size, a write stores them and leaves every other byte; outside it there is no such byte (log entry 24),
and a cartridge without SRAM has no such device (R17; log entry 25). It rests on the spec's own decision D28 (log entry 30). -/
def Obligations.SramDevice : Prop :=
  ∀ (s : State) (a : Addr) (v : Datum),
    (∀ o, s.cfg.overlay = some o → o.kind = .sram → o.lo ≤ a → a ≤ o.hi →
      let i := a.toNat - o.lo.toNat
      let j := (i + 1) % (o.hi.toNat - o.lo.toNat + 1)
      exec (.sramDev a (.read .byte)) s = .next { s with replies := s.replies ++ [.data (.byte (s.sramByte i))] }
      ∧ exec (.sramDev a (.read .word)) s
          = .next { s with replies := s.replies ++ [.data (.word (s.sramByte i ++ s.sramByte j))] }
      ∧ ∃ t, exec (.sramDev a (.write v)) s = .next t ∧ t = { s with sram := t.sram }
        ∧ ∀ k, t.sramByte k =
          match v with
          | .byte b => if k = i then b else s.sramByte k
          | .word w =>
            if k = j then w.extractLsb' 0 8 else if k = i then w.extractLsb' 8 8 else s.sramByte k)
    ∧ (∀ o acc, s.cfg.overlay = some o → o.kind = .sram → ¬ (o.lo ≤ a ∧ a ≤ o.hi) →
      exec (.sramDev a acc) s = .fault .sramIndexOutside)
    ∧ (∀ acc, (∀ o, s.cfg.overlay = some o → o.kind ≠ .sram) → exec (.sramDev a acc) s = .refused .deviceAbsent)

/-- The EEPROM device (R172): at any address a write is one line sample, the clock from bit 1 and the data from bit 0 of the low
byte, and a read returns the output in bit 0; a cartridge without EEPROM has no such device (R19; log entry 25). It rests on the
spec's own decision D29 (log entry 30); that the row runs at an address outside the overlay range is the model's choice (log
entry 39). -/
def Obligations.EepromDevice : Prop :=
  ∀ (s : State) (a : Addr),
    (s.cfg.hasEeprom = true →
      (∀ b : Byte, ∃ t, exec (.eepromDev a (.write (.byte b))) s = .next t
        ∧ exec (.eepStep (b.getLsbD 1) (b.getLsbD 0)) s = .next t)
      ∧ (∀ w : Word, ∃ t, exec (.eepromDev a (.write (.word w))) s = .next t
        ∧ exec (.eepStep (w.getLsbD 1) (w.getLsbD 0)) s = .next t)
      ∧ ∃ b : Bool, exec .eepOut s = .next { s with replies := s.replies ++ [.line b] }
        ∧ exec (.eepromDev a (.read .byte)) s
            = .next { s with replies := s.replies ++ [.data (.byte (if b = true then 1#8 else 0#8))] }
        ∧ exec (.eepromDev a (.read .word)) s
            = .next { s with replies := s.replies ++ [.data (.word (if b = true then 1#16 else 0#16))] })
    ∧ (s.cfg.hasEeprom = false → ∀ acc, exec (.eepromDev a acc) s = .refused .deviceAbsent)

/-- The variant only moves from LINEAR to PAGED, or back to its creation value by HOST.RESET, and a change of variant copies no
data (R174): over every operation of the table. -/
def Obligations.VariantChanges : Prop :=
  ∀ (i : Instr) (s t : State), exec i s = .next t → i ≠ .hostReset → t.mapper.variant ≠ s.mapper.variant →
    s.mapper.variant = .linear ∧ t.mapper.variant = .paged
    ∧ (i ≠ .schTick → t.cfg = s.cfg ∧ t.eeprom = s.eeprom ∧ t.sram = s.sram ∧ t.eep = s.eep)

/-- Closing (R175, R313): MAP.CLOSE and HOST.CLOSE hand over the battery-backed contents, every byte of the store that is
present, and change no state of the block; the session is closed (log entry 14). What a session was created with is what it
hands over when nothing was written: a saved image of the store's size comes back as it was handed in (R311). It rests on the
spec's own decision D43 (log entry 30). The form of what is handed in and out, a list of the store's bytes with index 0 first, is
the model's choice, since the spec gives no save format (log entry 6). -/
def Obligations.CloseSession : Prop :=
  (∀ s : State, ∃ (r : Reply) (t : State),
    t = { s with closed := true, replies := s.replies ++ [r] }
    ∧ exec .mapClose s = .next t ∧ exec .hostClose s = .next t
    ∧ (∀ o, s.cfg.overlay = some o → o.kind = .sram →
        r = .sramImage ((List.range (o.hi.toNat - o.lo.toNat + 1)).map s.sramByte))
    ∧ (∀ o, s.cfg.overlay = some o → o.kind = .eeprom → r = .eepImage ((List.range s.cfg.eepromSize).map s.eepByte))
    ∧ (s.cfg.overlay = none → r = .noImage))
  ∧ ∀ (cfg : BusConfig) (o : Overlay) (bytes : List Byte), cfg.overlay = some o →
    (o.kind = .sram → bytes.length = o.hi.toNat - o.lo.toNat + 1 →
      ∃ t, exec .hostClose (State.createSession cfg (some bytes)) = .next t ∧ t.replies = [.sramImage bytes])
    ∧ (o.kind = .eeprom → bytes.length = cfg.eepromSize →
      ∃ t, exec .hostClose (State.createSession cfg (some bytes)) = .next t ∧ t.replies = [.eepImage bytes])

/-! ## The serial EEPROM -/

/-- Each row of the line format, where its tuple and its protocol state hold, is the EEP.STEP of its sample, and completes
(R191, R78; the condition for a row is log entry 12). It rests on the spec's own decisions D31 to D36 (log entry 30). -/
def Obligations.LineRowsAreSamples : Prop :=
  ∀ (s : State) (pd d : Bool), s.cfg.hasEeprom = true →
    let same := fun (row : Instr) (c x : Bool) => ∃ t, exec row s = .next t ∧ exec (.eepStep c x) s = .next t
    (s.LinesAre true true → same .eepStart true false)
    ∧ (s.LinesAre true false → same .eepStop true true)
    ∧ (s.LinesAre false pd → s.eeprom.state = .standby → same (.standbyRise pd d) true d)
    ∧ (s.LinesAre true pd → s.eeprom.state = .standby → same (.standbyFall pd d) false d)
    ∧ (s.LinesAre false pd → s.eeprom.state = .getWordAddress → same (.gwaRise pd d) true d)
    ∧ (s.LinesAre true pd → s.eeprom.state = .getWordAddress → same (.gwaFall pd d) false d)
    ∧ (s.LinesAre false pd → s.eeprom.state = .write → same (.writeRise pd d) true d)
    ∧ (s.LinesAre true pd → s.eeprom.state = .write → same (.writeFall pd d) false d)
    ∧ (s.LinesAre false pd → s.eeprom.state = .read → same (.readRise pd d) true d)
    ∧ (s.LinesAre true pd → s.eeprom.state = .read → same (.readFall pd d) false d)
    ∧ (s.LinesAre false pd → s.eeprom.state = .waitStop → same (.waitStopRise pd d) true d)
    ∧ (s.LinesAre true pd → s.eeprom.state = .waitStop → same (.waitStopFall pd d) false d)
    ∧ (s.LinesAre false pd → same (.eepNoneLow pd d) false d)
    ∧ (s.LinesAre true false → same .eepNoneHigh0 true false)
    ∧ (s.LinesAre true true → same .eepNoneHigh1 true true)

/-- The transition table of the EEPROM (R191 to R201, R203, R204): in every state of the protocol, what one sample does. It
rests on the spec's own decisions D31 to D36 (log entry 30). -/
def Obligations.EepStepTable : Prop :=
  ∀ (s : State) (c d : Bool), s.cfg.hasEeprom = true →
    ∃ t, exec (.eepStep c d) s = .next t
      ∧ t = { s with eeprom := t.eeprom, eep := t.eep }
      ∧ (∀ i, t.eepByte i =
          if s.eeprom.clockLine = true ∧ c = false ∧ s.eeprom.state = .write ∧ s.eeprom.bitCounter = 9
            ∧ i = s.eeprom.addressRegister.toNat % s.cfg.eepromSize
          then s.eeprom.writeBuffer else s.eepByte i)
      ∧ EepAfter s.cfg.eepromSize s.eeprom c d t.eeprom

/-- EEP.OUT (R202): bit 8 minus the cycle of the addressed byte in READ, 0 in the acknowledge cycle, the data line otherwise; it
changes no state. The acknowledge of the address frame is 0 under its parameter (D35). -/
def Obligations.EepOutput : Prop :=
  ∀ s : State, s.cfg.hasEeprom = true →
    let e := s.eeprom
    ∃ b : Bool, exec .eepOut s = .next { s with replies := s.replies ++ [.line b] }
      ∧ (e.state = .read → 1 ≤ e.bitCounter → e.bitCounter ≤ 8 →
          b = (s.eepByte (e.addressRegister.toNat % s.cfg.eepromSize)).getLsbD (8 - e.bitCounter))
      ∧ (e.bitCounter = 9 → e.state = .read ∨ e.state = .write → b = false)
      ∧ (e.bitCounter = 9 → e.state = .getWordAddress → b = if s.cfg.eepromAddrAckZero = true then false else e.dataLine)
      ∧ (e.state = .standby ∨ e.state = .waitStop → b = e.dataLine)
      ∧ (e.bitCounter = 0 ∨ 10 ≤ e.bitCounter → b = e.dataLine)
      ∧ (e.state = .write ∨ e.state = .getWordAddress → e.bitCounter ≠ 9 → b = e.dataLine)

/-- Writing one byte over the two lines (R197, R198): in WRITE at the start of a frame with the clock low, eight data bits most
significant first and the acknowledge cycle store exactly that byte at the word address, advance the address modulo the size,
and leave the device ready for the next byte. It rests on the spec's own decision D33 (log entry 30). -/
def Obligations.EepromStoresTheDrivenByte : Prop :=
  ∀ (s : State) (b : Byte),
    s.cfg.hasEeprom = true → s.eeprom.state = .write → s.eeprom.bitCounter = 0 → s.eeprom.clockLine = false →
    ∃ t, execAll (lineByte b) s = .next t
      ∧ t = { s with eep := t.eep, eeprom := t.eeprom }
      ∧ (∀ i, t.eepByte i =
          if i = s.eeprom.addressRegister.toNat % s.cfg.eepromSize then b else s.eepByte i)
      ∧ t.eeprom.state = .write ∧ t.eeprom.bitCounter = 0 ∧ t.eeprom.clockLine = false
      ∧ t.eeprom.addressRegister
          = BitVec.ofNat 7 ((s.eeprom.addressRegister.toNat + 1) % s.cfg.eepromSize)

/-- Reading one byte over the two lines (R199, R202): in READ at the start of a frame with the clock low, eight cycles return
the addressed byte, most significant bit first, and change no store. It rests on the spec's own decision D35 (log entry 30). -/
def Obligations.EepromReturnsTheAddressedByte : Prop :=
  ∀ s : State,
    s.cfg.hasEeprom = true → s.eeprom.state = .read → s.eeprom.bitCounter = 0 → s.eeprom.clockLine = false →
    let x := s.eepByte (s.eeprom.addressRegister.toNat % s.cfg.eepromSize)
    ∃ t, execAll (List.replicate 8 lineRead).flatten s = .next t
      ∧ t = { s with eeprom := t.eeprom, replies := t.replies }
      ∧ t.replies = s.replies ++ [7, 6, 5, 4, 3, 2, 1, 0].map (fun k => Reply.line (x.getLsbD k))
      ∧ t.eeprom.state = .read ∧ t.eeprom.bitCounter = 8
      ∧ t.eeprom.addressRegister = s.eeprom.addressRegister

/-! ## The DMA and FIFO engine -/

/-- DMA.START (R221, U14): with a positive length and no transfer active the operands are loaded, COPY always targeting VRAM,
and nothing else changes; otherwise no rule gives the start a meaning and it is refused. It rests on the spec's own decision D37
(log entry 30). -/
def Obligations.DmaStart : Prop :=
  ∀ (s : State) (o : DmaOperands),
    (1 ≤ o.length → s.dma.mode = .none →
      exec (.dmaStart o) s = .next { s with dma :=
        { mode := modeOf o.mode
          lengthCounter := o.length
          sourceAddress := o.source
          destinationAddress := o.destination
          fifoQueue := s.dma.fifoQueue
          busyFlag := true
          target := if o.mode = .copy then .vram else o.target
          autoInc := o.autoInc
          fillValue := o.fillValue
          slotPhase := false
          copyLatch := s.dma.copyLatch } })
    ∧ (o.length = 0 ∨ s.dma.mode ≠ .none → exec (.dmaStart o) s = .refused .dmaStartUndefined)

/-- DMA.SLOT in FILL and in COPY, and with no transfer (R222, R223, R225): the byte written or latched, the addresses stepped
modulo 2^16, the length one less; then completion (R225), which is DMA.COMPLETE of the state the unit left. The stepped fields
rest on the spec's own decision D37 (log entry 30), and that each row does nothing in mode NONE on log entry 22 (DEDUCED). -/
def Obligations.FillAndCopySlots : Prop :=
  ∀ s : State,
    (s.dma.mode = .none → exec .dmaSlotFill s = .next s ∧ exec .dmaSlotCopy s = .next s ∧ exec .dmaSlotM68k s = .next s)
    ∧ (s.dma.mode = .fill → ∃ u, u = { s with
          calls := s.calls ++ [.vdpMemWrite s.dma.target s.dma.destinationAddress s.dma.fillValue]
          dma := { s.dma with
            destinationAddress := s.dma.destinationAddress + s.dma.autoInc.setWidth 16
            lengthCounter := s.dma.lengthCounter - 1 } }
        ∧ exec .dmaSlotFill s = exec .dmaComplete u
        ∧ (2 ≤ s.dma.lengthCounter → exec .dmaSlotFill s = .next u)
        ∧ (s.dma.lengthCounter ≤ 1 → s.deferredQueue = [] →
            exec .dmaSlotFill s = .next { u with dma := { u.dma with mode := .none, busyFlag := false, slotPhase := false } }))
    ∧ (s.dma.mode = .copy → s.dma.slotPhase = false →
        exec .dmaSlotCopy s = .next { s with
          calls := s.calls ++ [.vdpMemRead .vram (s.dma.sourceAddress.extractLsb' 0 16)]
          inputs := { s.inputs with vdpMem := s.inputs.vdpMem.tail }
          draws := s.draws + 1
          dma := { s.dma with
            copyLatch := s.inputs.vdpMem.headD (Config.freeVdpMem s.draws)
            slotPhase := true } })
    ∧ (s.dma.mode = .copy → s.dma.slotPhase = true → ∃ u, u = { s with
          calls := s.calls ++ [.vdpMemWrite .vram s.dma.destinationAddress s.dma.copyLatch]
          dma := { s.dma with
            sourceAddress := s.dma.sourceAddress.extractLsb' 16 8 ++ (s.dma.sourceAddress.extractLsb' 0 16 + 1#16 : Word)
            destinationAddress := s.dma.destinationAddress + s.dma.autoInc.setWidth 16
            lengthCounter := s.dma.lengthCounter - 1
            slotPhase := false } }
        ∧ exec .dmaSlotCopy s = exec .dmaComplete u
        ∧ (2 ≤ s.dma.lengthCounter → exec .dmaSlotCopy s = .next u)
        ∧ (s.dma.lengthCounter ≤ 1 → s.deferredQueue = [] →
            exec .dmaSlotCopy s = .next { u with dma := { u.dma with mode := .none, busyFlag := false, slotPhase := false } }))

/-- DMA.SLOT in M68K_TO_VRAM (R224): the first of a VRAM word's two slots only sets the phase; the word's slot is a bus read of
two bytes at the source under every rule of the bus, its word written to the target, the source stepped by 2 modulo 2^24; then
completion. It rests on the spec's own decision D38 (log entry 30). -/
def Obligations.BusToVdpSlots : Prop :=
  ∀ s : State, s.dma.mode = .m68kToVram →
    (s.dma.target = .vram → s.dma.slotPhase = false →
      exec .dmaSlotM68k s = .next { s with dma := { s.dma with slotPhase := true } })
    ∧ (s.dma.target ≠ .vram ∨ s.dma.slotPhase = true → ∃ (r u : State) (w : Word),
        exec (.memRead .word (s.dma.sourceAddress.setWidth 32)) s
          = .next { r with replies := r.replies ++ [.data (.word w)] }
        ∧ r.replies = s.replies ∧ r.dma = s.dma
        ∧ u = { r with
            calls := r.calls ++ [.vdpMemWriteWord s.dma.target s.dma.destinationAddress w]
            dma := { s.dma with
              sourceAddress := s.dma.sourceAddress + 2#24
              destinationAddress := s.dma.destinationAddress + s.dma.autoInc.setWidth 16
              lengthCounter := s.dma.lengthCounter - 1
              slotPhase := false } }
        ∧ exec .dmaSlotM68k s = exec .dmaComplete u
        ∧ (2 ≤ s.dma.lengthCounter → exec .dmaSlotM68k s = .next u)
        ∧ (s.dma.lengthCounter ≤ 1 → s.deferredQueue = [] →
            exec .dmaSlotM68k s = .next { u with dma := { u.dma with mode := .none, busyFlag := false, slotPhase := false } }))

/-- A transfer of L units ends at exactly its TotalSlots(L)-th slot (R230, R222 to R225): started from an idle engine with
nothing deferred, it is still active after any fewer slots, and idle with length 0 after that many. It rests on the spec's own
decision D38 (log entry 30). -/
def Obligations.TransferTakesTotalSlots : Prop :=
  ∀ (s : State) (o : DmaOperands) (k : Nat), 1 ≤ o.length → s.dma.mode = .none → s.deferredQueue = [] →
    k ≤ o.length * slotCost o.mode o.target →
    ∃ t, execAll (.dmaStart o :: List.replicate k (slotRowOf o.mode)) s = .next t
      ∧ (k < o.length * slotCost o.mode o.target →
          t.dma.mode = modeOf o.mode ∧ t.dma.busyFlag = true ∧ 1 ≤ t.dma.lengthCounter)
      ∧ (k = o.length * slotCost o.mode o.target →
          t.dma.mode = .none ∧ t.dma.busyFlag = false ∧ t.dma.lengthCounter = 0)

/-- FIFO.PUSH, FIFO.DRAIN (R226, R227, U17): a push appends while there is room and is refused on a full queue; a drain lets the
oldest entry through and then takes the ready edge. It rests on the spec's own decision D38 (log entry 30). -/
def Obligations.FifoPushAndDrain : Prop :=
  ∀ (s : State) (target : VdpTarget) (addr data : Word),
    (s.dma.fifoQueue.length < s.cfg.fifoCapacity →
      exec (.fifoPush target addr data) s
        = .next { s with dma := { s.dma with fifoQueue := s.dma.fifoQueue ++ [⟨target, addr, data⟩] } })
    ∧ (s.cfg.fifoCapacity ≤ s.dma.fifoQueue.length → exec (.fifoPush target addr data) s = .refused .fifoFull)
    ∧ (s.dma.fifoQueue = [] → exec .fifoDrain s = .next s)
    ∧ (∀ e q, s.dma.fifoQueue = e :: q → ∃ u, u = { s with
          calls := s.calls ++ [.vdpMemWriteWord e.target e.addr e.data]
          dma := { s.dma with fifoQueue := q } }
        ∧ exec .fifoDrain s = exec .dmaReadyedge u
        ∧ (s.deferredQueue = [] ∨ s.dma.mode = .m68kToVram → exec .fifoDrain s = .next u))

/-- DMA.STATUS and DMA.QSLOTS (R228, R229, R27): four status bits, and the budget of the resolution and period; neither changes
anything. It rests on the spec's own decision D39 (log entry 30). -/
def Obligations.StatusAndBudget : Prop :=
  ∀ (s : State),
    exec .dmaStatus s = .next { s with replies := s.replies ++
      [.status s.dma.busyFlag (decide (s.dma.fifoQueue.length = s.cfg.fifoCapacity)) (decide (s.dma.mode = .m68kToVram))
        (decide (s.dma.fifoQueue = []))] }
    ∧ exec (.dmaQslots .h32 .active) s = .next { s with replies := s.replies ++ [.count s.cfg.slots.h32Active] }
    ∧ exec (.dmaQslots .h32 .blank) s = .next { s with replies := s.replies ++ [.count s.cfg.slots.h32Blank] }
    ∧ exec (.dmaQslots .h40 .active) s = .next { s with replies := s.replies ++ [.count s.cfg.slots.h40Active] }
    ∧ exec (.dmaQslots .h40 .blank) s = .next { s with replies := s.replies ++ [.count s.cfg.slots.h40Blank] }

/-- DMA.COMPLETE and DMA.READYEDGE (R225, R231): a transfer ends only at length 0, and the queue is drained only when it holds
something and the VDP is ready. -/
def Obligations.CompletionAndReadyEdge : Prop :=
  ∀ s : State,
    (s.dma.lengthCounter ≠ 0 → exec .dmaComplete s = .next s)
    ∧ (s.dma.lengthCounter = 0 → ∃ u,
        u = { s with dma := { s.dma with mode := .none, busyFlag := false, slotPhase := false } }
        ∧ exec .dmaComplete s = exec .dmaReadyedge u
        ∧ (s.deferredQueue = [] ∨ s.dma.fifoQueue.length = s.cfg.fifoCapacity → exec .dmaComplete s = .next u))
    ∧ (s.deferredQueue = [] ∨ s.vdpReady = false → exec .dmaReadyedge s = .next s)
    ∧ (s.deferredQueue ≠ [] → s.vdpReady = true → exec .dmaReadyedge s = exec .arbDrain s)

/-! ## BusArbiter -/

/-- ARB.DRAIN (R253, R254, R118): with the FIFO not full at any entry's turn and no start among the VDP's answers, every entry
reaches its port in the order it was queued, a BYTE mirrored, and nothing stays; the same where one answer, to any entry, starts a
FILL or a COPY, or to the last one any transfer. Where the FIFO gets full with an entry, or the VDP's answer to it starts a
memory-to-VRAM transfer, the entries up to it are forwarded and all the later ones wait again in the same order, and the
re-deferral is flagged and logged once (R253's example, V-D11). While the VDP is not ready every entry stays, in order, and the
re-deferral is flagged and logged once. In each case the entries to no writable port are logged in order and dropped, wherever they
stand (R115). With every address in the VDP window and valid, the drain is the rows VDP.WR of its entries one after the other, then
the flag. It rests on the spec's own decisions D20 and D21 (log entry 30); a forwarded word's target and address, and the refusal
of a start that has no meaning with the drain around it, are log entries 21 and 41, and that any write can be queued is log entry 23. -/
def Obligations.DrainKeepsOrder : Prop :=
  ∀ s : State,
    (s.dma.mode ≠ .m68kToVram →
      (∀ q e r, s.deferredQueue = q ++ e :: r → reachesPort e = true →
        s.dma.fifoQueue.length + (dataWrites q).length < s.cfg.fifoCapacity) →
      s.AnswersStartNothing (portWrites s.deferredQueue).length →
      ∃ t, exec .arbDrain s = .next t
        ∧ t = { s with
            deferredQueue := []
            log := s.log ++ dropEvents s.deferredQueue
            calls := s.calls
              ++ (portWrites s.deferredQueue).map (fun e => .writeVdpPortWord (portOf e.addr) e.data.mirrored)
            inputs := { s.inputs with port := s.inputs.port.drop (portWrites s.deferredQueue).length }
            draws := s.draws + (portWrites s.deferredQueue).length
            dma := { s.dma with fifoQueue := t.dma.fifoQueue } }
        ∧ t.dma.fifoQueue.map FifoEntry.data
            = s.dma.fifoQueue.map FifoEntry.data ++ (dataWrites s.deferredQueue).map (fun e => e.data.mirrored))
    ∧ (∀ (p : List DeferredWrite) (e : DeferredWrite) (m r : List DeferredWrite) (start : Option DmaOperands),
      let done := portWrites (p ++ e :: m)
      let startsM2v := ∃ o, start = some o ∧ o.mode = .m68kToVram
      s.deferredQueue = p ++ e :: m ++ r → reachesPort e = true → s.dma.mode ≠ .m68kToVram →
      (∀ q e' w, p ++ e :: m = q ++ e' :: w → reachesPort e' = true →
        s.dma.fifoQueue.length + (dataWrites q).length < s.cfg.fifoCapacity) →
      -- of the answers to the forwarded entries, only the one to `e` may start a transfer, one that R221 gives a meaning
      (∀ k, k < done.length → k ≠ (portWrites p).length →
        ((s.inputs.port.drop k).headD (Config.freePortAnswer (s.draws + k))).start = none) →
      start = ((s.inputs.port.drop (portWrites p).length).headD
        (Config.freePortAnswer (s.draws + (portWrites p).length))).start →
      (∀ o, start = some o → 1 ≤ o.length ∧ s.dma.mode = .none) →
      (startsM2v → portWrites m = []) →
      -- the rest waits: the FIFO is full, a memory-to-VRAM transfer is active, or there is no rest
      (portWrites r = [] ∨ s.dma.fifoQueue.length + (dataWrites done).length = s.cfg.fifoCapacity ∨ startsM2v) →
      ∃ t, exec .arbDrain s = .next t
        ∧ t = { s with
            deferredQueue := portWrites r
            logicError := s.logicError || !(portWrites r).isEmpty
            log := s.log ++ dropEvents s.deferredQueue ++ redeferEvents (portWrites r)
            calls := s.calls ++ done.map (fun e => .writeVdpPortWord (portOf e.addr) e.data.mirrored)
            inputs := { s.inputs with port := s.inputs.port.drop done.length }
            draws := s.draws + done.length
            dma := t.dma }
        ∧ DmaAfter s.dma start t.dma
        ∧ t.dma.fifoQueue.map FifoEntry.data
            = s.dma.fifoQueue.map FifoEntry.data ++ (dataWrites done).map (fun e => e.data.mirrored))
    ∧ (s.vdpReady = false ∨ portWrites s.deferredQueue = [] →
      exec .arbDrain s = .next { s with
        deferredQueue := portWrites s.deferredQueue
        logicError := s.logicError || !(portWrites s.deferredQueue).isEmpty
        log := s.log ++ dropEvents s.deferredQueue ++ redeferEvents (portWrites s.deferredQueue) })
    ∧ ((∀ e ∈ s.deferredQueue, s.region e.addr = .vdp ∧ vdpValid s.cfg e.addr = true) →
      (∀ t, execAll (s.deferredQueue.map (fun e => .vdpWr e.addr e.data)) { s with deferredQueue := [] } = .next t →
        exec .arbDrain s = .next { t with
          logicError := t.logicError || !t.deferredQueue.isEmpty
          log := t.log ++ redeferEvents t.deferredQueue })
      ∧ (∀ r, execAll (s.deferredQueue.map (fun e => .vdpWr e.addr e.data)) { s with deferredQueue := [] } = .refused r →
        exec .arbDrain s = .refused r))

/-- ARB.PEN, ARB.TAKEPEN, ARB.DEFER (R250, R251, R252): a charge adds to its CPU alone, taking it returns what was accumulated
and leaves 0, and a deferred write goes to the end of the queue. The interrupt rows (R255, R256, R259, R260) and the freeze
(R257, R258): the lines are driven, latched by OR into one CPU's record, and a record bit is cleared by its acknowledge without
touching the lines. What the records present is R293: the main CPU's level, vertical above horizontal, and the co-CPU's one
request; the levels are parameters from general knowledge (log entry 29). It rests on the spec's own decisions D24, D25 and D41
(log entry 30). -/
def Obligations.ArbiterRows : Prop :=
  ∀ (s : State) (c : Nat) (e : DeferredWrite) (v h : Bool),
    exec (.arbPen .main c) s = .next { s with penalty := ⟨s.penalty.main + c, s.penalty.co⟩ }
    ∧ exec (.arbPen .co c) s = .next { s with penalty := ⟨s.penalty.main, s.penalty.co + c⟩ }
    ∧ exec (.arbTakepen .main) s
        = .next { s with penalty := ⟨0, s.penalty.co⟩, replies := s.replies ++ [.count s.penalty.main] }
    ∧ exec (.arbTakepen .co) s
        = .next { s with penalty := ⟨s.penalty.main, 0⟩, replies := s.replies ++ [.count s.penalty.co] }
    ∧ exec (.arbDefer e) s = .next { s with deferredQueue := s.deferredQueue ++ [e] }
    ∧ exec (.vdpSetlines v h) s = .next { s with vdpVLine := v, vdpHLine := h }
    ∧ exec .arbIrqMain s
        = .next { s with pendingMain := ⟨s.pendingMain.v || s.vdpVLine, s.pendingMain.h || s.vdpHLine⟩ }
    ∧ exec .arbIrqCo s
        = .next { s with pendingCo := ⟨s.pendingCo.v || s.vdpVLine, s.pendingCo.h || s.vdpHLine⟩ }
    ∧ exec (.cpuIack .main .v) s = .next { s with pendingMain := ⟨false, s.pendingMain.h⟩ }
    ∧ exec (.cpuIack .main .h) s = .next { s with pendingMain := ⟨s.pendingMain.v, false⟩ }
    ∧ exec (.cpuIack .co .v) s = .next { s with pendingCo := ⟨false, s.pendingCo.h⟩ }
    ∧ exec (.cpuIack .co .h) s = .next { s with pendingCo := ⟨s.pendingCo.v, false⟩ }
    ∧ s.mainIrqLevel = (if s.pendingMain.v = true then s.cfg.vintLevel else if s.pendingMain.h = true then s.cfg.hintLevel else 0)
    ∧ s.coIrqRequest = decide (s.pendingCo.v = true ∨ s.pendingCo.h = true)
    ∧ (∃ t, exec .arbIrqMain s = .next t ∧ t.mainIrqLevel =
        (if s.pendingMain.v = true ∨ s.vdpVLine = true then s.cfg.vintLevel
          else if s.pendingMain.h = true ∨ s.vdpHLine = true then s.cfg.hintLevel else 0))
    ∧ (∃ t, exec (.cpuIack .main .v) s = .next t ∧ t.mainIrqLevel = if s.pendingMain.h = true then s.cfg.hintLevel else 0)
    ∧ (∃ t, exec .arbIrqCo s = .next t
        ∧ t.coIrqRequest = (s.pendingCo.v || s.pendingCo.h || s.vdpVLine || s.vdpHLine))
    ∧ exec (.arbFreeze v) s = .next { s with mainCpuFrozen := v }
    ∧ exec .arbRunning s = .next { s with replies := s.replies ++ [.flag (!s.mainCpuFrozen)] }

/-- A pending record changes only at a latch, an acknowledge, a unit of work or a reset (R14, R292, R318): over every operation
of the table, no bus operation among them. It rests on the spec's own decision D24 (log entry 30). -/
def Obligations.PendingRecordChanges : Prop :=
  ∀ (i : Instr) (s t : State), exec i s = .next t →
    (t.pendingMain ≠ s.pendingMain → i = .arbIrqMain ∨ (∃ w, i = .cpuIack .main w) ∨ i = .schTick ∨ i = .hostReset)
    ∧ (t.pendingCo ≠ s.pendingCo → i = .arbIrqCo ∨ (∃ w, i = .cpuIack .co w) ∨ i = .schTick ∨ i = .hostReset)

/-- The error record (R6, R16, R289, R290): over every operation but HOST.RESET the log only grows, the logic-error flag is
never cleared, and a recorded fatal error is never cleared. It rests on the spec's own decisions D21 and D23 (log entry 30). -/
def Obligations.ErrorRecordOnlyGrows : Prop :=
  ∀ (i : Instr) (s t : State), exec i s = .next t → i ≠ .hostReset →
    s.log <+: t.log ∧ (s.logicError = true → t.logicError = true) ∧ (s.fatal ≠ none → t.fatal ≠ none)

/-! ## Scheduler and host -/

/-- SCH.TICK with quiet units (R271, R272, R273, R274, R276, R277): MAIN, CO, VDP, AUDIO in this order; a due runnable device
does its unit and its counter grows by divisor times max(1, cycles), for a CPU with its penalty, which is taken, and the latch
after it; a due device that is not runnable only advances by its divisor; a device not due does nothing. It rests on the spec's
own decisions D24, D25 and D40 (log entry 30); the form of a unit of work is DEDUCED (log entry 9). -/
def Obligations.TickWithQuietUnits : Prop :=
  ∀ (s : State) (m : MainUnit) (c : CoUnit) (v : VdpUnit) (u : AudioUnit),
    s.fatal = none →
    s.inputs.mainUnits.head? = some m → s.inputs.coUnits.head? = some c → s.inputs.vdpUnits.head? = some v →
    s.inputs.audioUnits.head? = some u → m.ops = [] → c.ops = [] → v.ops = [] →
    let mainDue := s.sched.nextMain = s.sched.masterTick
    let coDue := s.sched.nextCo = s.sched.masterTick
    let vdpDue := s.sched.nextVdp = s.sched.masterTick
    let audioDue := s.sched.nextAudio = s.sched.masterTick
    let mainRuns := mainDue ∧ s.mainCpuFrozen = false
    let coRuns := coDue ∧ s.coCpuResetAsserted = false ∧ s.coCpuBusRequested = false
    ∃ t, t = { s with
        penalty := ⟨if mainRuns then 0 else s.penalty.main, if coRuns then 0 else s.penalty.co⟩
        pendingMain :=
          if mainRuns then ⟨s.pendingMain.v || s.vdpVLine, s.pendingMain.h || s.vdpHLine⟩ else s.pendingMain
        pendingCo := if coRuns then ⟨s.pendingCo.v || s.vdpVLine, s.pendingCo.h || s.vdpHLine⟩ else s.pendingCo
        calls := s.calls ++ (if mainRuns then [.mainStep] else []) ++ (if coRuns then [.coStep] else [])
          ++ (if vdpDue then [.vdpSlot] else []) ++ (if audioDue then [.soundTick u.micros] else [])
        inputs := { s.inputs with
          mainUnits := if mainRuns then s.inputs.mainUnits.tail else s.inputs.mainUnits
          coUnits := if coRuns then s.inputs.coUnits.tail else s.inputs.coUnits
          vdpUnits := if vdpDue then s.inputs.vdpUnits.tail else s.inputs.vdpUnits
          audioUnits := if audioDue then s.inputs.audioUnits.tail else s.inputs.audioUnits }
        draws := s.draws + (if mainRuns then 1 else 0) + (if coRuns then 1 else 0) + (if vdpDue then 1 else 0)
          + (if audioDue then 1 else 0)
        sched :=
          { masterTick := s.sched.masterTick + 1
            nextMain :=
              if mainRuns then s.sched.nextMain + s.cfg.divMain * max 1 (m.cycles + s.penalty.main)
              else if mainDue then s.sched.nextMain + s.cfg.divMain else s.sched.nextMain
            nextCo :=
              if coRuns then s.sched.nextCo + s.cfg.divCo * max 1 (c.cycles + s.penalty.co)
              else if coDue then s.sched.nextCo + s.cfg.divCo else s.sched.nextCo
            nextVdp := if vdpDue then s.sched.nextVdp + s.cfg.divVdp * max 1 v.cycles else s.sched.nextVdp
            nextAudio := if audioDue then s.sched.nextAudio + s.cfg.divAudio * max 1 u.cycles else s.sched.nextAudio } }
      ∧ (¬ (vdpDue ∧ v.newFrame = true) → exec .schTick s = .next t)
      ∧ (vdpDue ∧ v.newFrame = true → exec .schTick s = exec .schNewframe t)

/-- SCH.TICK with working units (R271 to R274, R276, R277, R289): each due device's part leaves a state from which the rest of
the same tick goes on, so the four parts come in the fixed order, each seeing what the ones before it did; the main CPU's
instruction, the co-CPU's instruction and the VDP's slot perform their operations in order and as the rows do, and a store of the
co-CPU changes the one byte of its memory (log entry 9); a fatal error inside it ends the tick where it is; a new-frame edge runs the frame boundary after the tick. It rests on the spec's own decisions D23, D24, D25 and D40
(log entry 30); that a fatal error ends the tick before the penalty is taken and any counter advances is DEDUCED (log entry 13),
and so is the form of a unit of work (log entry 9). -/
def Obligations.TickRunsUnitsInOrder : Prop :=
  (∀ (s s1 : State) (op : VdpOp) (ops : List VdpOp),
    s.runVdp [] = .ok s ∧ (s.vdpOp op = .ok s1 → s.runVdp (op :: ops) = s1.runVdp ops)
    ∧ (∀ o, exec (.dmaStart o) s = ofExcept (s.vdpOp (.start o)))
    ∧ (∀ k, s.dma.mode = modeOf k ∨ s.dma.mode = .none → exec (slotRowOf k) s = ofExcept (s.vdpOp .slot))
    ∧ exec .fifoDrain s = ofExcept (s.vdpOp .drain)
    ∧ (∀ v h, exec (.vdpSetlines v h) s = ofExcept (s.vdpOp (.setLines v h)))
    ∧ (∀ b, exec (.arbFreeze b) s = ofExcept (s.vdpOp (.freeze b)))
    ∧ exec .dmaStatus s = ofExcept (s.vdpOp .status)
    ∧ (∀ r p, exec (.dmaQslots r p) s = ofExcept (s.vdpOp (.slots r p))))
  ∧ (∀ (s : State) (op : CoOp) (ops : List CoOp),
    s.runCo [] = s ∧ s.runCo (op :: ops) = (s.coOp op).runCo ops
    ∧ (∀ w, exec (.cpuIack .co w) s = .next (s.coOp (.iack w)))
    ∧ (∀ i b, ∃ u, u = s.coOp (.store i b) ∧ u = { s with comem := u.comem }
      ∧ ∀ k, u.comemByte k = if k = comemIndex s.cfg i then b else s.comemByte k))
  ∧ ∀ s : State, s.fatal = none → s.cfg.ok = true →
    (s.sched.nextMain = s.sched.masterTick → s.mainCpuFrozen = false →
      (∀ s1, execAll (s.mainUnit.ops.map mainOpInstr) s.askMainUnit = .next s1 → s1.fatal = none →
        exec .schTick s = exec .schTick { s1 with
          penalty := ⟨0, s1.penalty.co⟩
          pendingMain := ⟨s1.pendingMain.v || s1.vdpVLine, s1.pendingMain.h || s1.vdpHLine⟩
          sched := { s1.sched with
            nextMain := s.sched.nextMain + s.cfg.divMain * max 1 (s.mainUnit.cycles + s1.penalty.main) } })
      ∧ (∀ done op rest s0 s1, s.mainUnit.ops = done ++ op :: rest →
          execAll (done.map mainOpInstr) s.askMainUnit = .next s0 → s0.fatal = none →
          exec (mainOpInstr op) s0 = .next s1 → s1.fatal ≠ none → exec .schTick s = .next s1))
    ∧ (s.sched.nextMain = s.sched.masterTick → s.mainCpuFrozen = true →
      exec .schTick s = exec .schTick { s with sched := { s.sched with nextMain := s.sched.nextMain + s.cfg.divMain } })
    ∧ (s.sched.nextMain ≠ s.sched.masterTick →
      (s.sched.nextCo = s.sched.masterTick → s.coCpuResetAsserted = false → s.coCpuBusRequested = false →
        ∃ s1, s1 = s.askCoUnit.runCo s.coUnit.ops
          ∧ exec .schTick s = exec .schTick { s1 with
            penalty := ⟨s1.penalty.main, 0⟩
            pendingCo := ⟨s1.pendingCo.v || s1.vdpVLine, s1.pendingCo.h || s1.vdpHLine⟩
            sched := { s1.sched with
              nextCo := s.sched.nextCo + s.cfg.divCo * max 1 (s.coUnit.cycles + s1.penalty.co) } })
      ∧ (s.sched.nextCo = s.sched.masterTick → s.coCpuResetAsserted = true ∨ s.coCpuBusRequested = true →
        exec .schTick s = exec .schTick { s with sched := { s.sched with nextCo := s.sched.nextCo + s.cfg.divCo } })
      ∧ (s.sched.nextCo ≠ s.sched.masterTick →
        (∀ s1 t, s.sched.nextVdp = s.sched.masterTick → s.askVdpUnit.runVdp s.vdpUnit.ops = .ok s1 →
          exec .schTick { s1 with sched := { s1.sched with
            nextVdp := s.sched.nextVdp + s.cfg.divVdp * max 1 s.vdpUnit.cycles } } = .next t →
          (s.vdpUnit.newFrame = false → exec .schTick s = .next t)
          ∧ (s.vdpUnit.newFrame = true → exec .schTick s = exec .schNewframe t))
        ∧ (s.sched.nextVdp ≠ s.sched.masterTick →
          (s.sched.nextAudio = s.sched.masterTick →
            exec .schTick s = exec .schTick { s.askAudioUnit with sched := { s.sched with
              nextAudio := s.sched.nextAudio + s.cfg.divAudio * max 1 s.audioUnit.cycles } })
          ∧ (s.sched.nextAudio ≠ s.sched.masterTick →
            exec .schTick s = .next { s with sched := { s.sched with masterTick := s.sched.masterTick + 1 } }))))

/-- The frame boundary (R275): the hook is called once, every counter is rebased by the elapsed ticks, the master tick restarts,
and with no device overdue every distance to the master tick is kept. It rests on the spec's own decision D40 (log entry 30). -/
def Obligations.FrameBoundary : Prop :=
  ∀ s : State,
    exec .hostNewframe s = .next { s with calls := s.calls ++ [.onNewFrame] }
    ∧ ∃ t, exec .schNewframe s = .next t
      ∧ t = { s with
          calls := s.calls ++ [.onNewFrame]
          sched := ⟨0, s.sched.nextMain - s.sched.masterTick, s.sched.nextCo - s.sched.masterTick,
            s.sched.nextVdp - s.sched.masterTick, s.sched.nextAudio - s.sched.masterTick⟩ }
      ∧ (s.SchedOk → t.SchedOk
        ∧ t.sched.nextMain + s.sched.masterTick = s.sched.nextMain
        ∧ t.sched.nextCo + s.sched.masterTick = s.sched.nextCo
        ∧ t.sched.nextVdp + s.sched.masterTick = s.sched.nextVdp
        ∧ t.sched.nextAudio + s.sched.masterTick = s.sched.nextAudio)

/-- HOST.RESET (R310, R24): every architectural field at its reset value, the battery-backed stores and the parameters kept, the
co-CPU reset called; the queues are emptied without replay. What the model adds keeps its place (log entry 28), and the reset
values themselves are the spec's choices (log entry 4), the quotient of the bank register rounded down by the model's (log entry
40). It rests on the spec's own decision D30 (log entry 30). -/
def Obligations.HostReset : Prop :=
  ∀ s : State, exec .hostReset s = .next
    { coCpuBusRequested := false
      coCpuResetAsserted := true
      penalty := ⟨0, 0⟩
      deferredQueue := []
      vdpVLine := false
      vdpHLine := false
      pendingMain := ⟨false, false⟩
      pendingCo := ⟨false, false⟩
      mainCpuFrozen := false
      fatal := none
      logicError := false
      log := []
      ram := []
      comem := []
      sram := s.sram
      eep := s.eep
      mapper :=
        { variant := if s.cfg.overlay.isSome then .battery else .linear
          bankRegister := s.cfg.bankWindowBase / s.cfg.pageSize
          overlayMode := (s.cfg.overlay.map Overlay.resetMode).getD .disabled }
      eeprom := ⟨.standby, false, false, false, false, 0, 0#7, 0#8, false⟩
      dma := ⟨.none, 0, 0#24, 0#16, [], false, .vram, 0#8, 0#8, false, 0#8⟩
      sched := ⟨0, 0, 0, 0, 0⟩
      memoryMode := 0#16
      tmssLatch := 0#16
      cfg := s.cfg
      inbox := s.inbox
      inputs := s.inputs
      draws := s.draws
      epoch := s.epoch + 1
      closed := s.closed
      calls := s.calls ++ [.coReset]
      replies := s.replies }

/-! ## Invariants -/

/-- Every step of the machine, from every state that meets the invariants, keeps them (R174, R205, R232, R275, and the canonical
form of the stores): over every record that can be presented, the tick included. -/
def Obligations.EveryStepKeepsTheInvariant : Prop :=
  ∀ s t : State, s.Inv → step s = .next t → t.Inv

/-- Every operation but a bare ARB.DEFER keeps "a deferred write waits only while the VDP is not ready" (R231); the
exclusion is log entry 23. -/
def Obligations.DeferredWritesWaitOnlyWhileBusy : Prop :=
  ∀ (i : Instr) (s t : State), (∀ e, i ≠ .arbDefer e) → s.DeferOk → exec i s = .next t → t.DeferOk

/-- A created session, with or without a saved image, meets both invariants under the constraints between the parameters (R311,
R24, R232; the constraints are R5's with log entry 32), and so does the reset state of the session of log entry 3. It rests on
the reset values of the spec's own decision D30 (log entries 4, 30 and 40). That an image of any length is taken, and cut at the
store's size, is the model's choice (log entry 6). -/
def Obligations.InvariantsHoldAtReset : Prop :=
  (∀ (cfg : BusConfig) (image : Option (List Byte)), cfg.ok = true →
    (State.createSession cfg image).Inv ∧ (State.createSession cfg image).DeferOk)
  ∧ (∀ cfg : BusConfig, cfg.ok = true → (State.create cfg).Inv ∧ (State.create cfg).DeferOk)
  ∧ State.reset.Inv ∧ State.reset.DeferOk
end

