-- ==== Sys2Proof/Laws/Config.lean ====
section
/-! SUPPORT. What the constraints between the parameters (R5) give, one lemma each. -/

namespace Sys2Proof

theorem BusConfig.romEnd_lt {cfg : BusConfig} (h : cfg.ok = true) : cfg.romEnd < 0xA00000#24 := by
  simp only [BusConfig.ok, Bool.and_eq_true, decide_eq_true_eq] at h
  tauto

theorem BusConfig.overlay_bounds {cfg : BusConfig} {o : Overlay} (h : cfg.ok = true) (ho : cfg.overlay = some o) :
    o.lo ≤ o.hi ∧ o.hi < 0xA00000#24 := by
  simp only [BusConfig.ok, ho, Bool.and_eq_true, decide_eq_true_eq] at h
  tauto

/-- The EEPROM holds at least one byte. -/
theorem BusConfig.eepromSize_pos {cfg : BusConfig} (h : cfg.ok = true) : 0 < cfg.eepromSize := by
  simp only [BusConfig.ok, Bool.and_eq_true, decide_eq_true_eq] at h
  omega

theorem BusConfig.romSize_pos {cfg : BusConfig} (h : cfg.ok = true) : 1 ≤ cfg.romSize := by
  simp only [BusConfig.ok, Bool.and_eq_true, decide_eq_true_eq] at h
  tauto

theorem BusConfig.regAddrs_nodup {cfg : BusConfig} (h : cfg.ok = true) : cfg.regAddrs.Nodup := by
  simp only [BusConfig.ok, Bool.and_eq_true, decide_eq_true_eq] at h
  tauto

theorem BusConfig.divisors_pos {cfg : BusConfig} (h : cfg.ok = true) :
    1 ≤ cfg.divMain ∧ 1 ≤ cfg.divCo ∧ 1 ≤ cfg.divVdp ∧ 1 ≤ cfg.divAudio := by
  simp only [BusConfig.ok, Bool.and_eq_true, decide_eq_true_eq] at h
  tauto

/-- The parameters of State.reset meet them. -/
theorem Config.session_ok : Config.session.ok = true := by
  simp [BusConfig.ok, Config.session, BusConfig.regAddrs, BusConfig.regAddrOk]

end Sys2Proof
end

