-- ==== Sys2Proof/Laws/State.lean ====
section
/-! SUPPORT. What each update of one part of State does to every field: one lemma per field per update, so that no proof unfolds a
record update. -/

namespace Sys2Proof.Machine

/-! ## `State.addLog` -/

@[simp] theorem State.addLog_coCpuBusRequested (s : State) (k : EventKind) (i : EventInfo) : (s.addLog k i).coCpuBusRequested = s.coCpuBusRequested := rfl
@[simp] theorem State.addLog_coCpuResetAsserted (s : State) (k : EventKind) (i : EventInfo) : (s.addLog k i).coCpuResetAsserted = s.coCpuResetAsserted := rfl
@[simp] theorem State.addLog_penalty (s : State) (k : EventKind) (i : EventInfo) : (s.addLog k i).penalty = s.penalty := rfl
@[simp] theorem State.addLog_deferredQueue (s : State) (k : EventKind) (i : EventInfo) : (s.addLog k i).deferredQueue = s.deferredQueue := rfl
@[simp] theorem State.addLog_vdpVLine (s : State) (k : EventKind) (i : EventInfo) : (s.addLog k i).vdpVLine = s.vdpVLine := rfl
@[simp] theorem State.addLog_vdpHLine (s : State) (k : EventKind) (i : EventInfo) : (s.addLog k i).vdpHLine = s.vdpHLine := rfl
@[simp] theorem State.addLog_pendingMain (s : State) (k : EventKind) (i : EventInfo) : (s.addLog k i).pendingMain = s.pendingMain := rfl
@[simp] theorem State.addLog_pendingCo (s : State) (k : EventKind) (i : EventInfo) : (s.addLog k i).pendingCo = s.pendingCo := rfl
@[simp] theorem State.addLog_mainCpuFrozen (s : State) (k : EventKind) (i : EventInfo) : (s.addLog k i).mainCpuFrozen = s.mainCpuFrozen := rfl
@[simp] theorem State.addLog_fatal (s : State) (k : EventKind) (i : EventInfo) : (s.addLog k i).fatal = s.fatal := rfl
@[simp] theorem State.addLog_logicError (s : State) (k : EventKind) (i : EventInfo) : (s.addLog k i).logicError = s.logicError := rfl
@[simp] theorem State.addLog_log (s : State) (k : EventKind) (i : EventInfo) : (s.addLog k i).log = s.log ++ [⟨k, i⟩] := rfl
@[simp] theorem State.addLog_ram (s : State) (k : EventKind) (i : EventInfo) : (s.addLog k i).ram = s.ram := rfl
@[simp] theorem State.addLog_comem (s : State) (k : EventKind) (i : EventInfo) : (s.addLog k i).comem = s.comem := rfl
@[simp] theorem State.addLog_sram (s : State) (k : EventKind) (i : EventInfo) : (s.addLog k i).sram = s.sram := rfl
@[simp] theorem State.addLog_eep (s : State) (k : EventKind) (i : EventInfo) : (s.addLog k i).eep = s.eep := rfl
@[simp] theorem State.addLog_mapper (s : State) (k : EventKind) (i : EventInfo) : (s.addLog k i).mapper = s.mapper := rfl
@[simp] theorem State.addLog_eeprom (s : State) (k : EventKind) (i : EventInfo) : (s.addLog k i).eeprom = s.eeprom := rfl
@[simp] theorem State.addLog_dma (s : State) (k : EventKind) (i : EventInfo) : (s.addLog k i).dma = s.dma := rfl
@[simp] theorem State.addLog_sched (s : State) (k : EventKind) (i : EventInfo) : (s.addLog k i).sched = s.sched := rfl
@[simp] theorem State.addLog_memoryMode (s : State) (k : EventKind) (i : EventInfo) : (s.addLog k i).memoryMode = s.memoryMode := rfl
@[simp] theorem State.addLog_tmssLatch (s : State) (k : EventKind) (i : EventInfo) : (s.addLog k i).tmssLatch = s.tmssLatch := rfl
@[simp] theorem State.addLog_cfg (s : State) (k : EventKind) (i : EventInfo) : (s.addLog k i).cfg = s.cfg := rfl
@[simp] theorem State.addLog_inbox (s : State) (k : EventKind) (i : EventInfo) : (s.addLog k i).inbox = s.inbox := rfl
@[simp] theorem State.addLog_inputs (s : State) (k : EventKind) (i : EventInfo) : (s.addLog k i).inputs = s.inputs := rfl
@[simp] theorem State.addLog_draws (s : State) (k : EventKind) (i : EventInfo) : (s.addLog k i).draws = s.draws := rfl
@[simp] theorem State.addLog_epoch (s : State) (k : EventKind) (i : EventInfo) : (s.addLog k i).epoch = s.epoch := rfl
@[simp] theorem State.addLog_closed (s : State) (k : EventKind) (i : EventInfo) : (s.addLog k i).closed = s.closed := rfl
@[simp] theorem State.addLog_calls (s : State) (k : EventKind) (i : EventInfo) : (s.addLog k i).calls = s.calls := rfl
@[simp] theorem State.addLog_replies (s : State) (k : EventKind) (i : EventInfo) : (s.addLog k i).replies = s.replies := rfl

/-! ## `State.addCall` -/

@[simp] theorem State.addCall_coCpuBusRequested (s : State) (c : Call) : (s.addCall c).coCpuBusRequested = s.coCpuBusRequested := rfl
@[simp] theorem State.addCall_coCpuResetAsserted (s : State) (c : Call) : (s.addCall c).coCpuResetAsserted = s.coCpuResetAsserted := rfl
@[simp] theorem State.addCall_penalty (s : State) (c : Call) : (s.addCall c).penalty = s.penalty := rfl
@[simp] theorem State.addCall_deferredQueue (s : State) (c : Call) : (s.addCall c).deferredQueue = s.deferredQueue := rfl
@[simp] theorem State.addCall_vdpVLine (s : State) (c : Call) : (s.addCall c).vdpVLine = s.vdpVLine := rfl
@[simp] theorem State.addCall_vdpHLine (s : State) (c : Call) : (s.addCall c).vdpHLine = s.vdpHLine := rfl
@[simp] theorem State.addCall_pendingMain (s : State) (c : Call) : (s.addCall c).pendingMain = s.pendingMain := rfl
@[simp] theorem State.addCall_pendingCo (s : State) (c : Call) : (s.addCall c).pendingCo = s.pendingCo := rfl
@[simp] theorem State.addCall_mainCpuFrozen (s : State) (c : Call) : (s.addCall c).mainCpuFrozen = s.mainCpuFrozen := rfl
@[simp] theorem State.addCall_fatal (s : State) (c : Call) : (s.addCall c).fatal = s.fatal := rfl
@[simp] theorem State.addCall_logicError (s : State) (c : Call) : (s.addCall c).logicError = s.logicError := rfl
@[simp] theorem State.addCall_log (s : State) (c : Call) : (s.addCall c).log = s.log := rfl
@[simp] theorem State.addCall_ram (s : State) (c : Call) : (s.addCall c).ram = s.ram := rfl
@[simp] theorem State.addCall_comem (s : State) (c : Call) : (s.addCall c).comem = s.comem := rfl
@[simp] theorem State.addCall_sram (s : State) (c : Call) : (s.addCall c).sram = s.sram := rfl
@[simp] theorem State.addCall_eep (s : State) (c : Call) : (s.addCall c).eep = s.eep := rfl
@[simp] theorem State.addCall_mapper (s : State) (c : Call) : (s.addCall c).mapper = s.mapper := rfl
@[simp] theorem State.addCall_eeprom (s : State) (c : Call) : (s.addCall c).eeprom = s.eeprom := rfl
@[simp] theorem State.addCall_dma (s : State) (c : Call) : (s.addCall c).dma = s.dma := rfl
@[simp] theorem State.addCall_sched (s : State) (c : Call) : (s.addCall c).sched = s.sched := rfl
@[simp] theorem State.addCall_memoryMode (s : State) (c : Call) : (s.addCall c).memoryMode = s.memoryMode := rfl
@[simp] theorem State.addCall_tmssLatch (s : State) (c : Call) : (s.addCall c).tmssLatch = s.tmssLatch := rfl
@[simp] theorem State.addCall_cfg (s : State) (c : Call) : (s.addCall c).cfg = s.cfg := rfl
@[simp] theorem State.addCall_inbox (s : State) (c : Call) : (s.addCall c).inbox = s.inbox := rfl
@[simp] theorem State.addCall_inputs (s : State) (c : Call) : (s.addCall c).inputs = s.inputs := rfl
@[simp] theorem State.addCall_draws (s : State) (c : Call) : (s.addCall c).draws = s.draws := rfl
@[simp] theorem State.addCall_epoch (s : State) (c : Call) : (s.addCall c).epoch = s.epoch := rfl
@[simp] theorem State.addCall_closed (s : State) (c : Call) : (s.addCall c).closed = s.closed := rfl
@[simp] theorem State.addCall_calls (s : State) (c : Call) : (s.addCall c).calls = s.calls ++ [c] := rfl
@[simp] theorem State.addCall_replies (s : State) (c : Call) : (s.addCall c).replies = s.replies := rfl

/-! ## `State.addReply` -/

@[simp] theorem State.addReply_coCpuBusRequested (s : State) (r : Reply) : (s.addReply r).coCpuBusRequested = s.coCpuBusRequested := rfl
@[simp] theorem State.addReply_coCpuResetAsserted (s : State) (r : Reply) : (s.addReply r).coCpuResetAsserted = s.coCpuResetAsserted := rfl
@[simp] theorem State.addReply_penalty (s : State) (r : Reply) : (s.addReply r).penalty = s.penalty := rfl
@[simp] theorem State.addReply_deferredQueue (s : State) (r : Reply) : (s.addReply r).deferredQueue = s.deferredQueue := rfl
@[simp] theorem State.addReply_vdpVLine (s : State) (r : Reply) : (s.addReply r).vdpVLine = s.vdpVLine := rfl
@[simp] theorem State.addReply_vdpHLine (s : State) (r : Reply) : (s.addReply r).vdpHLine = s.vdpHLine := rfl
@[simp] theorem State.addReply_pendingMain (s : State) (r : Reply) : (s.addReply r).pendingMain = s.pendingMain := rfl
@[simp] theorem State.addReply_pendingCo (s : State) (r : Reply) : (s.addReply r).pendingCo = s.pendingCo := rfl
@[simp] theorem State.addReply_mainCpuFrozen (s : State) (r : Reply) : (s.addReply r).mainCpuFrozen = s.mainCpuFrozen := rfl
@[simp] theorem State.addReply_fatal (s : State) (r : Reply) : (s.addReply r).fatal = s.fatal := rfl
@[simp] theorem State.addReply_logicError (s : State) (r : Reply) : (s.addReply r).logicError = s.logicError := rfl
@[simp] theorem State.addReply_log (s : State) (r : Reply) : (s.addReply r).log = s.log := rfl
@[simp] theorem State.addReply_ram (s : State) (r : Reply) : (s.addReply r).ram = s.ram := rfl
@[simp] theorem State.addReply_comem (s : State) (r : Reply) : (s.addReply r).comem = s.comem := rfl
@[simp] theorem State.addReply_sram (s : State) (r : Reply) : (s.addReply r).sram = s.sram := rfl
@[simp] theorem State.addReply_eep (s : State) (r : Reply) : (s.addReply r).eep = s.eep := rfl
@[simp] theorem State.addReply_mapper (s : State) (r : Reply) : (s.addReply r).mapper = s.mapper := rfl
@[simp] theorem State.addReply_eeprom (s : State) (r : Reply) : (s.addReply r).eeprom = s.eeprom := rfl
@[simp] theorem State.addReply_dma (s : State) (r : Reply) : (s.addReply r).dma = s.dma := rfl
@[simp] theorem State.addReply_sched (s : State) (r : Reply) : (s.addReply r).sched = s.sched := rfl
@[simp] theorem State.addReply_memoryMode (s : State) (r : Reply) : (s.addReply r).memoryMode = s.memoryMode := rfl
@[simp] theorem State.addReply_tmssLatch (s : State) (r : Reply) : (s.addReply r).tmssLatch = s.tmssLatch := rfl
@[simp] theorem State.addReply_cfg (s : State) (r : Reply) : (s.addReply r).cfg = s.cfg := rfl
@[simp] theorem State.addReply_inbox (s : State) (r : Reply) : (s.addReply r).inbox = s.inbox := rfl
@[simp] theorem State.addReply_inputs (s : State) (r : Reply) : (s.addReply r).inputs = s.inputs := rfl
@[simp] theorem State.addReply_draws (s : State) (r : Reply) : (s.addReply r).draws = s.draws := rfl
@[simp] theorem State.addReply_epoch (s : State) (r : Reply) : (s.addReply r).epoch = s.epoch := rfl
@[simp] theorem State.addReply_closed (s : State) (r : Reply) : (s.addReply r).closed = s.closed := rfl
@[simp] theorem State.addReply_calls (s : State) (r : Reply) : (s.addReply r).calls = s.calls := rfl
@[simp] theorem State.addReply_replies (s : State) (r : Reply) : (s.addReply r).replies = s.replies ++ [r] := rfl

/-! ## `State.ask` -/

@[simp] theorem State.ask_coCpuBusRequested (s : State) (c : Call) (rest : Inputs) : (s.ask c rest).coCpuBusRequested = s.coCpuBusRequested := rfl
@[simp] theorem State.ask_coCpuResetAsserted (s : State) (c : Call) (rest : Inputs) : (s.ask c rest).coCpuResetAsserted = s.coCpuResetAsserted := rfl
@[simp] theorem State.ask_penalty (s : State) (c : Call) (rest : Inputs) : (s.ask c rest).penalty = s.penalty := rfl
@[simp] theorem State.ask_deferredQueue (s : State) (c : Call) (rest : Inputs) : (s.ask c rest).deferredQueue = s.deferredQueue := rfl
@[simp] theorem State.ask_vdpVLine (s : State) (c : Call) (rest : Inputs) : (s.ask c rest).vdpVLine = s.vdpVLine := rfl
@[simp] theorem State.ask_vdpHLine (s : State) (c : Call) (rest : Inputs) : (s.ask c rest).vdpHLine = s.vdpHLine := rfl
@[simp] theorem State.ask_pendingMain (s : State) (c : Call) (rest : Inputs) : (s.ask c rest).pendingMain = s.pendingMain := rfl
@[simp] theorem State.ask_pendingCo (s : State) (c : Call) (rest : Inputs) : (s.ask c rest).pendingCo = s.pendingCo := rfl
@[simp] theorem State.ask_mainCpuFrozen (s : State) (c : Call) (rest : Inputs) : (s.ask c rest).mainCpuFrozen = s.mainCpuFrozen := rfl
@[simp] theorem State.ask_fatal (s : State) (c : Call) (rest : Inputs) : (s.ask c rest).fatal = s.fatal := rfl
@[simp] theorem State.ask_logicError (s : State) (c : Call) (rest : Inputs) : (s.ask c rest).logicError = s.logicError := rfl
@[simp] theorem State.ask_log (s : State) (c : Call) (rest : Inputs) : (s.ask c rest).log = s.log := rfl
@[simp] theorem State.ask_ram (s : State) (c : Call) (rest : Inputs) : (s.ask c rest).ram = s.ram := rfl
@[simp] theorem State.ask_comem (s : State) (c : Call) (rest : Inputs) : (s.ask c rest).comem = s.comem := rfl
@[simp] theorem State.ask_sram (s : State) (c : Call) (rest : Inputs) : (s.ask c rest).sram = s.sram := rfl
@[simp] theorem State.ask_eep (s : State) (c : Call) (rest : Inputs) : (s.ask c rest).eep = s.eep := rfl
@[simp] theorem State.ask_mapper (s : State) (c : Call) (rest : Inputs) : (s.ask c rest).mapper = s.mapper := rfl
@[simp] theorem State.ask_eeprom (s : State) (c : Call) (rest : Inputs) : (s.ask c rest).eeprom = s.eeprom := rfl
@[simp] theorem State.ask_dma (s : State) (c : Call) (rest : Inputs) : (s.ask c rest).dma = s.dma := rfl
@[simp] theorem State.ask_sched (s : State) (c : Call) (rest : Inputs) : (s.ask c rest).sched = s.sched := rfl
@[simp] theorem State.ask_memoryMode (s : State) (c : Call) (rest : Inputs) : (s.ask c rest).memoryMode = s.memoryMode := rfl
@[simp] theorem State.ask_tmssLatch (s : State) (c : Call) (rest : Inputs) : (s.ask c rest).tmssLatch = s.tmssLatch := rfl
@[simp] theorem State.ask_cfg (s : State) (c : Call) (rest : Inputs) : (s.ask c rest).cfg = s.cfg := rfl
@[simp] theorem State.ask_inbox (s : State) (c : Call) (rest : Inputs) : (s.ask c rest).inbox = s.inbox := rfl
@[simp] theorem State.ask_inputs (s : State) (c : Call) (rest : Inputs) : (s.ask c rest).inputs = rest := rfl
@[simp] theorem State.ask_draws (s : State) (c : Call) (rest : Inputs) : (s.ask c rest).draws = s.draws + 1 := rfl
@[simp] theorem State.ask_epoch (s : State) (c : Call) (rest : Inputs) : (s.ask c rest).epoch = s.epoch := rfl
@[simp] theorem State.ask_closed (s : State) (c : Call) (rest : Inputs) : (s.ask c rest).closed = s.closed := rfl
@[simp] theorem State.ask_calls (s : State) (c : Call) (rest : Inputs) : (s.ask c rest).calls = s.calls ++ [c] := rfl
@[simp] theorem State.ask_replies (s : State) (c : Call) (rest : Inputs) : (s.ask c rest).replies = s.replies := rfl

/-! ## `State.addPenalty` -/

@[simp] theorem State.addPenalty_coCpuBusRequested (s : State) (c : Cpu) (n : Nat) : (s.addPenalty c n).coCpuBusRequested = s.coCpuBusRequested := by cases c <;> rfl
@[simp] theorem State.addPenalty_coCpuResetAsserted (s : State) (c : Cpu) (n : Nat) : (s.addPenalty c n).coCpuResetAsserted = s.coCpuResetAsserted := by cases c <;> rfl
@[simp] theorem State.addPenalty_deferredQueue (s : State) (c : Cpu) (n : Nat) : (s.addPenalty c n).deferredQueue = s.deferredQueue := by cases c <;> rfl
@[simp] theorem State.addPenalty_vdpVLine (s : State) (c : Cpu) (n : Nat) : (s.addPenalty c n).vdpVLine = s.vdpVLine := by cases c <;> rfl
@[simp] theorem State.addPenalty_vdpHLine (s : State) (c : Cpu) (n : Nat) : (s.addPenalty c n).vdpHLine = s.vdpHLine := by cases c <;> rfl
@[simp] theorem State.addPenalty_pendingMain (s : State) (c : Cpu) (n : Nat) : (s.addPenalty c n).pendingMain = s.pendingMain := by cases c <;> rfl
@[simp] theorem State.addPenalty_pendingCo (s : State) (c : Cpu) (n : Nat) : (s.addPenalty c n).pendingCo = s.pendingCo := by cases c <;> rfl
@[simp] theorem State.addPenalty_mainCpuFrozen (s : State) (c : Cpu) (n : Nat) : (s.addPenalty c n).mainCpuFrozen = s.mainCpuFrozen := by cases c <;> rfl
@[simp] theorem State.addPenalty_fatal (s : State) (c : Cpu) (n : Nat) : (s.addPenalty c n).fatal = s.fatal := by cases c <;> rfl
@[simp] theorem State.addPenalty_logicError (s : State) (c : Cpu) (n : Nat) : (s.addPenalty c n).logicError = s.logicError := by cases c <;> rfl
@[simp] theorem State.addPenalty_log (s : State) (c : Cpu) (n : Nat) : (s.addPenalty c n).log = s.log := by cases c <;> rfl
@[simp] theorem State.addPenalty_ram (s : State) (c : Cpu) (n : Nat) : (s.addPenalty c n).ram = s.ram := by cases c <;> rfl
@[simp] theorem State.addPenalty_comem (s : State) (c : Cpu) (n : Nat) : (s.addPenalty c n).comem = s.comem := by cases c <;> rfl
@[simp] theorem State.addPenalty_sram (s : State) (c : Cpu) (n : Nat) : (s.addPenalty c n).sram = s.sram := by cases c <;> rfl
@[simp] theorem State.addPenalty_eep (s : State) (c : Cpu) (n : Nat) : (s.addPenalty c n).eep = s.eep := by cases c <;> rfl
@[simp] theorem State.addPenalty_mapper (s : State) (c : Cpu) (n : Nat) : (s.addPenalty c n).mapper = s.mapper := by cases c <;> rfl
@[simp] theorem State.addPenalty_eeprom (s : State) (c : Cpu) (n : Nat) : (s.addPenalty c n).eeprom = s.eeprom := by cases c <;> rfl
@[simp] theorem State.addPenalty_dma (s : State) (c : Cpu) (n : Nat) : (s.addPenalty c n).dma = s.dma := by cases c <;> rfl
@[simp] theorem State.addPenalty_sched (s : State) (c : Cpu) (n : Nat) : (s.addPenalty c n).sched = s.sched := by cases c <;> rfl
@[simp] theorem State.addPenalty_memoryMode (s : State) (c : Cpu) (n : Nat) : (s.addPenalty c n).memoryMode = s.memoryMode := by cases c <;> rfl
@[simp] theorem State.addPenalty_tmssLatch (s : State) (c : Cpu) (n : Nat) : (s.addPenalty c n).tmssLatch = s.tmssLatch := by cases c <;> rfl
@[simp] theorem State.addPenalty_cfg (s : State) (c : Cpu) (n : Nat) : (s.addPenalty c n).cfg = s.cfg := by cases c <;> rfl
@[simp] theorem State.addPenalty_inbox (s : State) (c : Cpu) (n : Nat) : (s.addPenalty c n).inbox = s.inbox := by cases c <;> rfl
@[simp] theorem State.addPenalty_inputs (s : State) (c : Cpu) (n : Nat) : (s.addPenalty c n).inputs = s.inputs := by cases c <;> rfl
@[simp] theorem State.addPenalty_draws (s : State) (c : Cpu) (n : Nat) : (s.addPenalty c n).draws = s.draws := by cases c <;> rfl
@[simp] theorem State.addPenalty_epoch (s : State) (c : Cpu) (n : Nat) : (s.addPenalty c n).epoch = s.epoch := by cases c <;> rfl
@[simp] theorem State.addPenalty_closed (s : State) (c : Cpu) (n : Nat) : (s.addPenalty c n).closed = s.closed := by cases c <;> rfl
@[simp] theorem State.addPenalty_calls (s : State) (c : Cpu) (n : Nat) : (s.addPenalty c n).calls = s.calls := by cases c <;> rfl
@[simp] theorem State.addPenalty_replies (s : State) (c : Cpu) (n : Nat) : (s.addPenalty c n).replies = s.replies := by cases c <;> rfl

/-! ## `State.clearPenalty` -/

@[simp] theorem State.clearPenalty_coCpuBusRequested (s : State) (c : Cpu) : (s.clearPenalty c).coCpuBusRequested = s.coCpuBusRequested := by cases c <;> rfl
@[simp] theorem State.clearPenalty_coCpuResetAsserted (s : State) (c : Cpu) : (s.clearPenalty c).coCpuResetAsserted = s.coCpuResetAsserted := by cases c <;> rfl
@[simp] theorem State.clearPenalty_deferredQueue (s : State) (c : Cpu) : (s.clearPenalty c).deferredQueue = s.deferredQueue := by cases c <;> rfl
@[simp] theorem State.clearPenalty_vdpVLine (s : State) (c : Cpu) : (s.clearPenalty c).vdpVLine = s.vdpVLine := by cases c <;> rfl
@[simp] theorem State.clearPenalty_vdpHLine (s : State) (c : Cpu) : (s.clearPenalty c).vdpHLine = s.vdpHLine := by cases c <;> rfl
@[simp] theorem State.clearPenalty_pendingMain (s : State) (c : Cpu) : (s.clearPenalty c).pendingMain = s.pendingMain := by cases c <;> rfl
@[simp] theorem State.clearPenalty_pendingCo (s : State) (c : Cpu) : (s.clearPenalty c).pendingCo = s.pendingCo := by cases c <;> rfl
@[simp] theorem State.clearPenalty_mainCpuFrozen (s : State) (c : Cpu) : (s.clearPenalty c).mainCpuFrozen = s.mainCpuFrozen := by cases c <;> rfl
@[simp] theorem State.clearPenalty_fatal (s : State) (c : Cpu) : (s.clearPenalty c).fatal = s.fatal := by cases c <;> rfl
@[simp] theorem State.clearPenalty_logicError (s : State) (c : Cpu) : (s.clearPenalty c).logicError = s.logicError := by cases c <;> rfl
@[simp] theorem State.clearPenalty_log (s : State) (c : Cpu) : (s.clearPenalty c).log = s.log := by cases c <;> rfl
@[simp] theorem State.clearPenalty_ram (s : State) (c : Cpu) : (s.clearPenalty c).ram = s.ram := by cases c <;> rfl
@[simp] theorem State.clearPenalty_comem (s : State) (c : Cpu) : (s.clearPenalty c).comem = s.comem := by cases c <;> rfl
@[simp] theorem State.clearPenalty_sram (s : State) (c : Cpu) : (s.clearPenalty c).sram = s.sram := by cases c <;> rfl
@[simp] theorem State.clearPenalty_eep (s : State) (c : Cpu) : (s.clearPenalty c).eep = s.eep := by cases c <;> rfl
@[simp] theorem State.clearPenalty_mapper (s : State) (c : Cpu) : (s.clearPenalty c).mapper = s.mapper := by cases c <;> rfl
@[simp] theorem State.clearPenalty_eeprom (s : State) (c : Cpu) : (s.clearPenalty c).eeprom = s.eeprom := by cases c <;> rfl
@[simp] theorem State.clearPenalty_dma (s : State) (c : Cpu) : (s.clearPenalty c).dma = s.dma := by cases c <;> rfl
@[simp] theorem State.clearPenalty_sched (s : State) (c : Cpu) : (s.clearPenalty c).sched = s.sched := by cases c <;> rfl
@[simp] theorem State.clearPenalty_memoryMode (s : State) (c : Cpu) : (s.clearPenalty c).memoryMode = s.memoryMode := by cases c <;> rfl
@[simp] theorem State.clearPenalty_tmssLatch (s : State) (c : Cpu) : (s.clearPenalty c).tmssLatch = s.tmssLatch := by cases c <;> rfl
@[simp] theorem State.clearPenalty_cfg (s : State) (c : Cpu) : (s.clearPenalty c).cfg = s.cfg := by cases c <;> rfl
@[simp] theorem State.clearPenalty_inbox (s : State) (c : Cpu) : (s.clearPenalty c).inbox = s.inbox := by cases c <;> rfl
@[simp] theorem State.clearPenalty_inputs (s : State) (c : Cpu) : (s.clearPenalty c).inputs = s.inputs := by cases c <;> rfl
@[simp] theorem State.clearPenalty_draws (s : State) (c : Cpu) : (s.clearPenalty c).draws = s.draws := by cases c <;> rfl
@[simp] theorem State.clearPenalty_epoch (s : State) (c : Cpu) : (s.clearPenalty c).epoch = s.epoch := by cases c <;> rfl
@[simp] theorem State.clearPenalty_closed (s : State) (c : Cpu) : (s.clearPenalty c).closed = s.closed := by cases c <;> rfl
@[simp] theorem State.clearPenalty_calls (s : State) (c : Cpu) : (s.clearPenalty c).calls = s.calls := by cases c <;> rfl
@[simp] theorem State.clearPenalty_replies (s : State) (c : Cpu) : (s.clearPenalty c).replies = s.replies := by cases c <;> rfl

/-! ## `State.defer` -/

@[simp] theorem State.defer_coCpuBusRequested (s : State) (e : DeferredWrite) : (s.defer e).coCpuBusRequested = s.coCpuBusRequested := rfl
@[simp] theorem State.defer_coCpuResetAsserted (s : State) (e : DeferredWrite) : (s.defer e).coCpuResetAsserted = s.coCpuResetAsserted := rfl
@[simp] theorem State.defer_penalty (s : State) (e : DeferredWrite) : (s.defer e).penalty = s.penalty := rfl
@[simp] theorem State.defer_deferredQueue (s : State) (e : DeferredWrite) : (s.defer e).deferredQueue = s.deferredQueue ++ [e] := rfl
@[simp] theorem State.defer_vdpVLine (s : State) (e : DeferredWrite) : (s.defer e).vdpVLine = s.vdpVLine := rfl
@[simp] theorem State.defer_vdpHLine (s : State) (e : DeferredWrite) : (s.defer e).vdpHLine = s.vdpHLine := rfl
@[simp] theorem State.defer_pendingMain (s : State) (e : DeferredWrite) : (s.defer e).pendingMain = s.pendingMain := rfl
@[simp] theorem State.defer_pendingCo (s : State) (e : DeferredWrite) : (s.defer e).pendingCo = s.pendingCo := rfl
@[simp] theorem State.defer_mainCpuFrozen (s : State) (e : DeferredWrite) : (s.defer e).mainCpuFrozen = s.mainCpuFrozen := rfl
@[simp] theorem State.defer_fatal (s : State) (e : DeferredWrite) : (s.defer e).fatal = s.fatal := rfl
@[simp] theorem State.defer_logicError (s : State) (e : DeferredWrite) : (s.defer e).logicError = s.logicError := rfl
@[simp] theorem State.defer_log (s : State) (e : DeferredWrite) : (s.defer e).log = s.log := rfl
@[simp] theorem State.defer_ram (s : State) (e : DeferredWrite) : (s.defer e).ram = s.ram := rfl
@[simp] theorem State.defer_comem (s : State) (e : DeferredWrite) : (s.defer e).comem = s.comem := rfl
@[simp] theorem State.defer_sram (s : State) (e : DeferredWrite) : (s.defer e).sram = s.sram := rfl
@[simp] theorem State.defer_eep (s : State) (e : DeferredWrite) : (s.defer e).eep = s.eep := rfl
@[simp] theorem State.defer_mapper (s : State) (e : DeferredWrite) : (s.defer e).mapper = s.mapper := rfl
@[simp] theorem State.defer_eeprom (s : State) (e : DeferredWrite) : (s.defer e).eeprom = s.eeprom := rfl
@[simp] theorem State.defer_dma (s : State) (e : DeferredWrite) : (s.defer e).dma = s.dma := rfl
@[simp] theorem State.defer_sched (s : State) (e : DeferredWrite) : (s.defer e).sched = s.sched := rfl
@[simp] theorem State.defer_memoryMode (s : State) (e : DeferredWrite) : (s.defer e).memoryMode = s.memoryMode := rfl
@[simp] theorem State.defer_tmssLatch (s : State) (e : DeferredWrite) : (s.defer e).tmssLatch = s.tmssLatch := rfl
@[simp] theorem State.defer_cfg (s : State) (e : DeferredWrite) : (s.defer e).cfg = s.cfg := rfl
@[simp] theorem State.defer_inbox (s : State) (e : DeferredWrite) : (s.defer e).inbox = s.inbox := rfl
@[simp] theorem State.defer_inputs (s : State) (e : DeferredWrite) : (s.defer e).inputs = s.inputs := rfl
@[simp] theorem State.defer_draws (s : State) (e : DeferredWrite) : (s.defer e).draws = s.draws := rfl
@[simp] theorem State.defer_epoch (s : State) (e : DeferredWrite) : (s.defer e).epoch = s.epoch := rfl
@[simp] theorem State.defer_closed (s : State) (e : DeferredWrite) : (s.defer e).closed = s.closed := rfl
@[simp] theorem State.defer_calls (s : State) (e : DeferredWrite) : (s.defer e).calls = s.calls := rfl
@[simp] theorem State.defer_replies (s : State) (e : DeferredWrite) : (s.defer e).replies = s.replies := rfl

/-! ## `State.raiseFatal` -/

@[simp] theorem State.raiseFatal_coCpuBusRequested (s : State) (k : EventKind) (a : Addr) : (s.raiseFatal k a).coCpuBusRequested = s.coCpuBusRequested := rfl
@[simp] theorem State.raiseFatal_coCpuResetAsserted (s : State) (k : EventKind) (a : Addr) : (s.raiseFatal k a).coCpuResetAsserted = s.coCpuResetAsserted := rfl
@[simp] theorem State.raiseFatal_penalty (s : State) (k : EventKind) (a : Addr) : (s.raiseFatal k a).penalty = s.penalty := rfl
@[simp] theorem State.raiseFatal_deferredQueue (s : State) (k : EventKind) (a : Addr) : (s.raiseFatal k a).deferredQueue = s.deferredQueue := rfl
@[simp] theorem State.raiseFatal_vdpVLine (s : State) (k : EventKind) (a : Addr) : (s.raiseFatal k a).vdpVLine = s.vdpVLine := rfl
@[simp] theorem State.raiseFatal_vdpHLine (s : State) (k : EventKind) (a : Addr) : (s.raiseFatal k a).vdpHLine = s.vdpHLine := rfl
@[simp] theorem State.raiseFatal_pendingMain (s : State) (k : EventKind) (a : Addr) : (s.raiseFatal k a).pendingMain = s.pendingMain := rfl
@[simp] theorem State.raiseFatal_pendingCo (s : State) (k : EventKind) (a : Addr) : (s.raiseFatal k a).pendingCo = s.pendingCo := rfl
@[simp] theorem State.raiseFatal_mainCpuFrozen (s : State) (k : EventKind) (a : Addr) : (s.raiseFatal k a).mainCpuFrozen = s.mainCpuFrozen := rfl
@[simp] theorem State.raiseFatal_fatal (s : State) (k : EventKind) (a : Addr) : (s.raiseFatal k a).fatal = some (k, a) := rfl
@[simp] theorem State.raiseFatal_logicError (s : State) (k : EventKind) (a : Addr) : (s.raiseFatal k a).logicError = s.logicError := rfl
@[simp] theorem State.raiseFatal_log (s : State) (k : EventKind) (a : Addr) : (s.raiseFatal k a).log = s.log := rfl
@[simp] theorem State.raiseFatal_ram (s : State) (k : EventKind) (a : Addr) : (s.raiseFatal k a).ram = s.ram := rfl
@[simp] theorem State.raiseFatal_comem (s : State) (k : EventKind) (a : Addr) : (s.raiseFatal k a).comem = s.comem := rfl
@[simp] theorem State.raiseFatal_sram (s : State) (k : EventKind) (a : Addr) : (s.raiseFatal k a).sram = s.sram := rfl
@[simp] theorem State.raiseFatal_eep (s : State) (k : EventKind) (a : Addr) : (s.raiseFatal k a).eep = s.eep := rfl
@[simp] theorem State.raiseFatal_mapper (s : State) (k : EventKind) (a : Addr) : (s.raiseFatal k a).mapper = s.mapper := rfl
@[simp] theorem State.raiseFatal_eeprom (s : State) (k : EventKind) (a : Addr) : (s.raiseFatal k a).eeprom = s.eeprom := rfl
@[simp] theorem State.raiseFatal_dma (s : State) (k : EventKind) (a : Addr) : (s.raiseFatal k a).dma = s.dma := rfl
@[simp] theorem State.raiseFatal_sched (s : State) (k : EventKind) (a : Addr) : (s.raiseFatal k a).sched = s.sched := rfl
@[simp] theorem State.raiseFatal_memoryMode (s : State) (k : EventKind) (a : Addr) : (s.raiseFatal k a).memoryMode = s.memoryMode := rfl
@[simp] theorem State.raiseFatal_tmssLatch (s : State) (k : EventKind) (a : Addr) : (s.raiseFatal k a).tmssLatch = s.tmssLatch := rfl
@[simp] theorem State.raiseFatal_cfg (s : State) (k : EventKind) (a : Addr) : (s.raiseFatal k a).cfg = s.cfg := rfl
@[simp] theorem State.raiseFatal_inbox (s : State) (k : EventKind) (a : Addr) : (s.raiseFatal k a).inbox = s.inbox := rfl
@[simp] theorem State.raiseFatal_inputs (s : State) (k : EventKind) (a : Addr) : (s.raiseFatal k a).inputs = s.inputs := rfl
@[simp] theorem State.raiseFatal_draws (s : State) (k : EventKind) (a : Addr) : (s.raiseFatal k a).draws = s.draws := rfl
@[simp] theorem State.raiseFatal_epoch (s : State) (k : EventKind) (a : Addr) : (s.raiseFatal k a).epoch = s.epoch := rfl
@[simp] theorem State.raiseFatal_closed (s : State) (k : EventKind) (a : Addr) : (s.raiseFatal k a).closed = s.closed := rfl
@[simp] theorem State.raiseFatal_calls (s : State) (k : EventKind) (a : Addr) : (s.raiseFatal k a).calls = s.calls := rfl
@[simp] theorem State.raiseFatal_replies (s : State) (k : EventKind) (a : Addr) : (s.raiseFatal k a).replies = s.replies ++ [.error k a] := rfl

/-! ## `State.latchMain` -/

@[simp] theorem State.latchMain_coCpuBusRequested (s : State) : (s.latchMain).coCpuBusRequested = s.coCpuBusRequested := rfl
@[simp] theorem State.latchMain_coCpuResetAsserted (s : State) : (s.latchMain).coCpuResetAsserted = s.coCpuResetAsserted := rfl
@[simp] theorem State.latchMain_penalty (s : State) : (s.latchMain).penalty = s.penalty := rfl
@[simp] theorem State.latchMain_deferredQueue (s : State) : (s.latchMain).deferredQueue = s.deferredQueue := rfl
@[simp] theorem State.latchMain_vdpVLine (s : State) : (s.latchMain).vdpVLine = s.vdpVLine := rfl
@[simp] theorem State.latchMain_vdpHLine (s : State) : (s.latchMain).vdpHLine = s.vdpHLine := rfl
@[simp] theorem State.latchMain_pendingMain (s : State) : (s.latchMain).pendingMain = ⟨s.pendingMain.v || s.vdpVLine, s.pendingMain.h || s.vdpHLine⟩ := rfl
@[simp] theorem State.latchMain_pendingCo (s : State) : (s.latchMain).pendingCo = s.pendingCo := rfl
@[simp] theorem State.latchMain_mainCpuFrozen (s : State) : (s.latchMain).mainCpuFrozen = s.mainCpuFrozen := rfl
@[simp] theorem State.latchMain_fatal (s : State) : (s.latchMain).fatal = s.fatal := rfl
@[simp] theorem State.latchMain_logicError (s : State) : (s.latchMain).logicError = s.logicError := rfl
@[simp] theorem State.latchMain_log (s : State) : (s.latchMain).log = s.log := rfl
@[simp] theorem State.latchMain_ram (s : State) : (s.latchMain).ram = s.ram := rfl
@[simp] theorem State.latchMain_comem (s : State) : (s.latchMain).comem = s.comem := rfl
@[simp] theorem State.latchMain_sram (s : State) : (s.latchMain).sram = s.sram := rfl
@[simp] theorem State.latchMain_eep (s : State) : (s.latchMain).eep = s.eep := rfl
@[simp] theorem State.latchMain_mapper (s : State) : (s.latchMain).mapper = s.mapper := rfl
@[simp] theorem State.latchMain_eeprom (s : State) : (s.latchMain).eeprom = s.eeprom := rfl
@[simp] theorem State.latchMain_dma (s : State) : (s.latchMain).dma = s.dma := rfl
@[simp] theorem State.latchMain_sched (s : State) : (s.latchMain).sched = s.sched := rfl
@[simp] theorem State.latchMain_memoryMode (s : State) : (s.latchMain).memoryMode = s.memoryMode := rfl
@[simp] theorem State.latchMain_tmssLatch (s : State) : (s.latchMain).tmssLatch = s.tmssLatch := rfl
@[simp] theorem State.latchMain_cfg (s : State) : (s.latchMain).cfg = s.cfg := rfl
@[simp] theorem State.latchMain_inbox (s : State) : (s.latchMain).inbox = s.inbox := rfl
@[simp] theorem State.latchMain_inputs (s : State) : (s.latchMain).inputs = s.inputs := rfl
@[simp] theorem State.latchMain_draws (s : State) : (s.latchMain).draws = s.draws := rfl
@[simp] theorem State.latchMain_epoch (s : State) : (s.latchMain).epoch = s.epoch := rfl
@[simp] theorem State.latchMain_closed (s : State) : (s.latchMain).closed = s.closed := rfl
@[simp] theorem State.latchMain_calls (s : State) : (s.latchMain).calls = s.calls := rfl
@[simp] theorem State.latchMain_replies (s : State) : (s.latchMain).replies = s.replies := rfl

/-! ## `State.latchCo` -/

@[simp] theorem State.latchCo_coCpuBusRequested (s : State) : (s.latchCo).coCpuBusRequested = s.coCpuBusRequested := rfl
@[simp] theorem State.latchCo_coCpuResetAsserted (s : State) : (s.latchCo).coCpuResetAsserted = s.coCpuResetAsserted := rfl
@[simp] theorem State.latchCo_penalty (s : State) : (s.latchCo).penalty = s.penalty := rfl
@[simp] theorem State.latchCo_deferredQueue (s : State) : (s.latchCo).deferredQueue = s.deferredQueue := rfl
@[simp] theorem State.latchCo_vdpVLine (s : State) : (s.latchCo).vdpVLine = s.vdpVLine := rfl
@[simp] theorem State.latchCo_vdpHLine (s : State) : (s.latchCo).vdpHLine = s.vdpHLine := rfl
@[simp] theorem State.latchCo_pendingMain (s : State) : (s.latchCo).pendingMain = s.pendingMain := rfl
@[simp] theorem State.latchCo_pendingCo (s : State) : (s.latchCo).pendingCo = ⟨s.pendingCo.v || s.vdpVLine, s.pendingCo.h || s.vdpHLine⟩ := rfl
@[simp] theorem State.latchCo_mainCpuFrozen (s : State) : (s.latchCo).mainCpuFrozen = s.mainCpuFrozen := rfl
@[simp] theorem State.latchCo_fatal (s : State) : (s.latchCo).fatal = s.fatal := rfl
@[simp] theorem State.latchCo_logicError (s : State) : (s.latchCo).logicError = s.logicError := rfl
@[simp] theorem State.latchCo_log (s : State) : (s.latchCo).log = s.log := rfl
@[simp] theorem State.latchCo_ram (s : State) : (s.latchCo).ram = s.ram := rfl
@[simp] theorem State.latchCo_comem (s : State) : (s.latchCo).comem = s.comem := rfl
@[simp] theorem State.latchCo_sram (s : State) : (s.latchCo).sram = s.sram := rfl
@[simp] theorem State.latchCo_eep (s : State) : (s.latchCo).eep = s.eep := rfl
@[simp] theorem State.latchCo_mapper (s : State) : (s.latchCo).mapper = s.mapper := rfl
@[simp] theorem State.latchCo_eeprom (s : State) : (s.latchCo).eeprom = s.eeprom := rfl
@[simp] theorem State.latchCo_dma (s : State) : (s.latchCo).dma = s.dma := rfl
@[simp] theorem State.latchCo_sched (s : State) : (s.latchCo).sched = s.sched := rfl
@[simp] theorem State.latchCo_memoryMode (s : State) : (s.latchCo).memoryMode = s.memoryMode := rfl
@[simp] theorem State.latchCo_tmssLatch (s : State) : (s.latchCo).tmssLatch = s.tmssLatch := rfl
@[simp] theorem State.latchCo_cfg (s : State) : (s.latchCo).cfg = s.cfg := rfl
@[simp] theorem State.latchCo_inbox (s : State) : (s.latchCo).inbox = s.inbox := rfl
@[simp] theorem State.latchCo_inputs (s : State) : (s.latchCo).inputs = s.inputs := rfl
@[simp] theorem State.latchCo_draws (s : State) : (s.latchCo).draws = s.draws := rfl
@[simp] theorem State.latchCo_epoch (s : State) : (s.latchCo).epoch = s.epoch := rfl
@[simp] theorem State.latchCo_closed (s : State) : (s.latchCo).closed = s.closed := rfl
@[simp] theorem State.latchCo_calls (s : State) : (s.latchCo).calls = s.calls := rfl
@[simp] theorem State.latchCo_replies (s : State) : (s.latchCo).replies = s.replies := rfl

/-! ## `State.iack` -/

@[simp] theorem State.iack_coCpuBusRequested (s : State) (c : Cpu) (w : Irq) : (s.iack c w).coCpuBusRequested = s.coCpuBusRequested := by cases c <;> rfl
@[simp] theorem State.iack_coCpuResetAsserted (s : State) (c : Cpu) (w : Irq) : (s.iack c w).coCpuResetAsserted = s.coCpuResetAsserted := by cases c <;> rfl
@[simp] theorem State.iack_penalty (s : State) (c : Cpu) (w : Irq) : (s.iack c w).penalty = s.penalty := by cases c <;> rfl
@[simp] theorem State.iack_deferredQueue (s : State) (c : Cpu) (w : Irq) : (s.iack c w).deferredQueue = s.deferredQueue := by cases c <;> rfl
@[simp] theorem State.iack_vdpVLine (s : State) (c : Cpu) (w : Irq) : (s.iack c w).vdpVLine = s.vdpVLine := by cases c <;> rfl
@[simp] theorem State.iack_vdpHLine (s : State) (c : Cpu) (w : Irq) : (s.iack c w).vdpHLine = s.vdpHLine := by cases c <;> rfl
@[simp] theorem State.iack_mainCpuFrozen (s : State) (c : Cpu) (w : Irq) : (s.iack c w).mainCpuFrozen = s.mainCpuFrozen := by cases c <;> rfl
@[simp] theorem State.iack_fatal (s : State) (c : Cpu) (w : Irq) : (s.iack c w).fatal = s.fatal := by cases c <;> rfl
@[simp] theorem State.iack_logicError (s : State) (c : Cpu) (w : Irq) : (s.iack c w).logicError = s.logicError := by cases c <;> rfl
@[simp] theorem State.iack_log (s : State) (c : Cpu) (w : Irq) : (s.iack c w).log = s.log := by cases c <;> rfl
@[simp] theorem State.iack_ram (s : State) (c : Cpu) (w : Irq) : (s.iack c w).ram = s.ram := by cases c <;> rfl
@[simp] theorem State.iack_comem (s : State) (c : Cpu) (w : Irq) : (s.iack c w).comem = s.comem := by cases c <;> rfl
@[simp] theorem State.iack_sram (s : State) (c : Cpu) (w : Irq) : (s.iack c w).sram = s.sram := by cases c <;> rfl
@[simp] theorem State.iack_eep (s : State) (c : Cpu) (w : Irq) : (s.iack c w).eep = s.eep := by cases c <;> rfl
@[simp] theorem State.iack_mapper (s : State) (c : Cpu) (w : Irq) : (s.iack c w).mapper = s.mapper := by cases c <;> rfl
@[simp] theorem State.iack_eeprom (s : State) (c : Cpu) (w : Irq) : (s.iack c w).eeprom = s.eeprom := by cases c <;> rfl
@[simp] theorem State.iack_dma (s : State) (c : Cpu) (w : Irq) : (s.iack c w).dma = s.dma := by cases c <;> rfl
@[simp] theorem State.iack_sched (s : State) (c : Cpu) (w : Irq) : (s.iack c w).sched = s.sched := by cases c <;> rfl
@[simp] theorem State.iack_memoryMode (s : State) (c : Cpu) (w : Irq) : (s.iack c w).memoryMode = s.memoryMode := by cases c <;> rfl
@[simp] theorem State.iack_tmssLatch (s : State) (c : Cpu) (w : Irq) : (s.iack c w).tmssLatch = s.tmssLatch := by cases c <;> rfl
@[simp] theorem State.iack_cfg (s : State) (c : Cpu) (w : Irq) : (s.iack c w).cfg = s.cfg := by cases c <;> rfl
@[simp] theorem State.iack_inbox (s : State) (c : Cpu) (w : Irq) : (s.iack c w).inbox = s.inbox := by cases c <;> rfl
@[simp] theorem State.iack_inputs (s : State) (c : Cpu) (w : Irq) : (s.iack c w).inputs = s.inputs := by cases c <;> rfl
@[simp] theorem State.iack_draws (s : State) (c : Cpu) (w : Irq) : (s.iack c w).draws = s.draws := by cases c <;> rfl
@[simp] theorem State.iack_epoch (s : State) (c : Cpu) (w : Irq) : (s.iack c w).epoch = s.epoch := by cases c <;> rfl
@[simp] theorem State.iack_closed (s : State) (c : Cpu) (w : Irq) : (s.iack c w).closed = s.closed := by cases c <;> rfl
@[simp] theorem State.iack_calls (s : State) (c : Cpu) (w : Irq) : (s.iack c w).calls = s.calls := by cases c <;> rfl
@[simp] theorem State.iack_replies (s : State) (c : Cpu) (w : Irq) : (s.iack c w).replies = s.replies := by cases c <;> rfl

/-! ## `State.setLines` -/

@[simp] theorem State.setLines_coCpuBusRequested (s : State) (v h : Bool) : (s.setLines v h).coCpuBusRequested = s.coCpuBusRequested := rfl
@[simp] theorem State.setLines_coCpuResetAsserted (s : State) (v h : Bool) : (s.setLines v h).coCpuResetAsserted = s.coCpuResetAsserted := rfl
@[simp] theorem State.setLines_penalty (s : State) (v h : Bool) : (s.setLines v h).penalty = s.penalty := rfl
@[simp] theorem State.setLines_deferredQueue (s : State) (v h : Bool) : (s.setLines v h).deferredQueue = s.deferredQueue := rfl
@[simp] theorem State.setLines_vdpVLine (s : State) (v h : Bool) : (s.setLines v h).vdpVLine = v := rfl
@[simp] theorem State.setLines_vdpHLine (s : State) (v h : Bool) : (s.setLines v h).vdpHLine = h := rfl
@[simp] theorem State.setLines_pendingMain (s : State) (v h : Bool) : (s.setLines v h).pendingMain = s.pendingMain := rfl
@[simp] theorem State.setLines_pendingCo (s : State) (v h : Bool) : (s.setLines v h).pendingCo = s.pendingCo := rfl
@[simp] theorem State.setLines_mainCpuFrozen (s : State) (v h : Bool) : (s.setLines v h).mainCpuFrozen = s.mainCpuFrozen := rfl
@[simp] theorem State.setLines_fatal (s : State) (v h : Bool) : (s.setLines v h).fatal = s.fatal := rfl
@[simp] theorem State.setLines_logicError (s : State) (v h : Bool) : (s.setLines v h).logicError = s.logicError := rfl
@[simp] theorem State.setLines_log (s : State) (v h : Bool) : (s.setLines v h).log = s.log := rfl
@[simp] theorem State.setLines_ram (s : State) (v h : Bool) : (s.setLines v h).ram = s.ram := rfl
@[simp] theorem State.setLines_comem (s : State) (v h : Bool) : (s.setLines v h).comem = s.comem := rfl
@[simp] theorem State.setLines_sram (s : State) (v h : Bool) : (s.setLines v h).sram = s.sram := rfl
@[simp] theorem State.setLines_eep (s : State) (v h : Bool) : (s.setLines v h).eep = s.eep := rfl
@[simp] theorem State.setLines_mapper (s : State) (v h : Bool) : (s.setLines v h).mapper = s.mapper := rfl
@[simp] theorem State.setLines_eeprom (s : State) (v h : Bool) : (s.setLines v h).eeprom = s.eeprom := rfl
@[simp] theorem State.setLines_dma (s : State) (v h : Bool) : (s.setLines v h).dma = s.dma := rfl
@[simp] theorem State.setLines_sched (s : State) (v h : Bool) : (s.setLines v h).sched = s.sched := rfl
@[simp] theorem State.setLines_memoryMode (s : State) (v h : Bool) : (s.setLines v h).memoryMode = s.memoryMode := rfl
@[simp] theorem State.setLines_tmssLatch (s : State) (v h : Bool) : (s.setLines v h).tmssLatch = s.tmssLatch := rfl
@[simp] theorem State.setLines_cfg (s : State) (v h : Bool) : (s.setLines v h).cfg = s.cfg := rfl
@[simp] theorem State.setLines_inbox (s : State) (v h : Bool) : (s.setLines v h).inbox = s.inbox := rfl
@[simp] theorem State.setLines_inputs (s : State) (v h : Bool) : (s.setLines v h).inputs = s.inputs := rfl
@[simp] theorem State.setLines_draws (s : State) (v h : Bool) : (s.setLines v h).draws = s.draws := rfl
@[simp] theorem State.setLines_epoch (s : State) (v h : Bool) : (s.setLines v h).epoch = s.epoch := rfl
@[simp] theorem State.setLines_closed (s : State) (v h : Bool) : (s.setLines v h).closed = s.closed := rfl
@[simp] theorem State.setLines_calls (s : State) (v h : Bool) : (s.setLines v h).calls = s.calls := rfl
@[simp] theorem State.setLines_replies (s : State) (v h : Bool) : (s.setLines v h).replies = s.replies := rfl

/-! ## `State.freeze` -/

@[simp] theorem State.freeze_coCpuBusRequested (s : State) (b : Bool) : (s.freeze b).coCpuBusRequested = s.coCpuBusRequested := rfl
@[simp] theorem State.freeze_coCpuResetAsserted (s : State) (b : Bool) : (s.freeze b).coCpuResetAsserted = s.coCpuResetAsserted := rfl
@[simp] theorem State.freeze_penalty (s : State) (b : Bool) : (s.freeze b).penalty = s.penalty := rfl
@[simp] theorem State.freeze_deferredQueue (s : State) (b : Bool) : (s.freeze b).deferredQueue = s.deferredQueue := rfl
@[simp] theorem State.freeze_vdpVLine (s : State) (b : Bool) : (s.freeze b).vdpVLine = s.vdpVLine := rfl
@[simp] theorem State.freeze_vdpHLine (s : State) (b : Bool) : (s.freeze b).vdpHLine = s.vdpHLine := rfl
@[simp] theorem State.freeze_pendingMain (s : State) (b : Bool) : (s.freeze b).pendingMain = s.pendingMain := rfl
@[simp] theorem State.freeze_pendingCo (s : State) (b : Bool) : (s.freeze b).pendingCo = s.pendingCo := rfl
@[simp] theorem State.freeze_mainCpuFrozen (s : State) (b : Bool) : (s.freeze b).mainCpuFrozen = b := rfl
@[simp] theorem State.freeze_fatal (s : State) (b : Bool) : (s.freeze b).fatal = s.fatal := rfl
@[simp] theorem State.freeze_logicError (s : State) (b : Bool) : (s.freeze b).logicError = s.logicError := rfl
@[simp] theorem State.freeze_log (s : State) (b : Bool) : (s.freeze b).log = s.log := rfl
@[simp] theorem State.freeze_ram (s : State) (b : Bool) : (s.freeze b).ram = s.ram := rfl
@[simp] theorem State.freeze_comem (s : State) (b : Bool) : (s.freeze b).comem = s.comem := rfl
@[simp] theorem State.freeze_sram (s : State) (b : Bool) : (s.freeze b).sram = s.sram := rfl
@[simp] theorem State.freeze_eep (s : State) (b : Bool) : (s.freeze b).eep = s.eep := rfl
@[simp] theorem State.freeze_mapper (s : State) (b : Bool) : (s.freeze b).mapper = s.mapper := rfl
@[simp] theorem State.freeze_eeprom (s : State) (b : Bool) : (s.freeze b).eeprom = s.eeprom := rfl
@[simp] theorem State.freeze_dma (s : State) (b : Bool) : (s.freeze b).dma = s.dma := rfl
@[simp] theorem State.freeze_sched (s : State) (b : Bool) : (s.freeze b).sched = s.sched := rfl
@[simp] theorem State.freeze_memoryMode (s : State) (b : Bool) : (s.freeze b).memoryMode = s.memoryMode := rfl
@[simp] theorem State.freeze_tmssLatch (s : State) (b : Bool) : (s.freeze b).tmssLatch = s.tmssLatch := rfl
@[simp] theorem State.freeze_cfg (s : State) (b : Bool) : (s.freeze b).cfg = s.cfg := rfl
@[simp] theorem State.freeze_inbox (s : State) (b : Bool) : (s.freeze b).inbox = s.inbox := rfl
@[simp] theorem State.freeze_inputs (s : State) (b : Bool) : (s.freeze b).inputs = s.inputs := rfl
@[simp] theorem State.freeze_draws (s : State) (b : Bool) : (s.freeze b).draws = s.draws := rfl
@[simp] theorem State.freeze_epoch (s : State) (b : Bool) : (s.freeze b).epoch = s.epoch := rfl
@[simp] theorem State.freeze_closed (s : State) (b : Bool) : (s.freeze b).closed = s.closed := rfl
@[simp] theorem State.freeze_calls (s : State) (b : Bool) : (s.freeze b).calls = s.calls := rfl
@[simp] theorem State.freeze_replies (s : State) (b : Bool) : (s.freeze b).replies = s.replies := rfl

/-! ## `State.pushFifo` -/

@[simp] theorem State.pushFifo_coCpuBusRequested (s : State) (e : FifoEntry) : (s.pushFifo e).coCpuBusRequested = s.coCpuBusRequested := rfl
@[simp] theorem State.pushFifo_coCpuResetAsserted (s : State) (e : FifoEntry) : (s.pushFifo e).coCpuResetAsserted = s.coCpuResetAsserted := rfl
@[simp] theorem State.pushFifo_penalty (s : State) (e : FifoEntry) : (s.pushFifo e).penalty = s.penalty := rfl
@[simp] theorem State.pushFifo_deferredQueue (s : State) (e : FifoEntry) : (s.pushFifo e).deferredQueue = s.deferredQueue := rfl
@[simp] theorem State.pushFifo_vdpVLine (s : State) (e : FifoEntry) : (s.pushFifo e).vdpVLine = s.vdpVLine := rfl
@[simp] theorem State.pushFifo_vdpHLine (s : State) (e : FifoEntry) : (s.pushFifo e).vdpHLine = s.vdpHLine := rfl
@[simp] theorem State.pushFifo_pendingMain (s : State) (e : FifoEntry) : (s.pushFifo e).pendingMain = s.pendingMain := rfl
@[simp] theorem State.pushFifo_pendingCo (s : State) (e : FifoEntry) : (s.pushFifo e).pendingCo = s.pendingCo := rfl
@[simp] theorem State.pushFifo_mainCpuFrozen (s : State) (e : FifoEntry) : (s.pushFifo e).mainCpuFrozen = s.mainCpuFrozen := rfl
@[simp] theorem State.pushFifo_fatal (s : State) (e : FifoEntry) : (s.pushFifo e).fatal = s.fatal := rfl
@[simp] theorem State.pushFifo_logicError (s : State) (e : FifoEntry) : (s.pushFifo e).logicError = s.logicError := rfl
@[simp] theorem State.pushFifo_log (s : State) (e : FifoEntry) : (s.pushFifo e).log = s.log := rfl
@[simp] theorem State.pushFifo_ram (s : State) (e : FifoEntry) : (s.pushFifo e).ram = s.ram := rfl
@[simp] theorem State.pushFifo_comem (s : State) (e : FifoEntry) : (s.pushFifo e).comem = s.comem := rfl
@[simp] theorem State.pushFifo_sram (s : State) (e : FifoEntry) : (s.pushFifo e).sram = s.sram := rfl
@[simp] theorem State.pushFifo_eep (s : State) (e : FifoEntry) : (s.pushFifo e).eep = s.eep := rfl
@[simp] theorem State.pushFifo_mapper (s : State) (e : FifoEntry) : (s.pushFifo e).mapper = s.mapper := rfl
@[simp] theorem State.pushFifo_eeprom (s : State) (e : FifoEntry) : (s.pushFifo e).eeprom = s.eeprom := rfl
@[simp] theorem State.pushFifo_dma (s : State) (e : FifoEntry) : (s.pushFifo e).dma = { s.dma with fifoQueue := s.dma.fifoQueue ++ [e] } := rfl
@[simp] theorem State.pushFifo_sched (s : State) (e : FifoEntry) : (s.pushFifo e).sched = s.sched := rfl
@[simp] theorem State.pushFifo_memoryMode (s : State) (e : FifoEntry) : (s.pushFifo e).memoryMode = s.memoryMode := rfl
@[simp] theorem State.pushFifo_tmssLatch (s : State) (e : FifoEntry) : (s.pushFifo e).tmssLatch = s.tmssLatch := rfl
@[simp] theorem State.pushFifo_cfg (s : State) (e : FifoEntry) : (s.pushFifo e).cfg = s.cfg := rfl
@[simp] theorem State.pushFifo_inbox (s : State) (e : FifoEntry) : (s.pushFifo e).inbox = s.inbox := rfl
@[simp] theorem State.pushFifo_inputs (s : State) (e : FifoEntry) : (s.pushFifo e).inputs = s.inputs := rfl
@[simp] theorem State.pushFifo_draws (s : State) (e : FifoEntry) : (s.pushFifo e).draws = s.draws := rfl
@[simp] theorem State.pushFifo_epoch (s : State) (e : FifoEntry) : (s.pushFifo e).epoch = s.epoch := rfl
@[simp] theorem State.pushFifo_closed (s : State) (e : FifoEntry) : (s.pushFifo e).closed = s.closed := rfl
@[simp] theorem State.pushFifo_calls (s : State) (e : FifoEntry) : (s.pushFifo e).calls = s.calls := rfl
@[simp] theorem State.pushFifo_replies (s : State) (e : FifoEntry) : (s.pushFifo e).replies = s.replies := rfl

/-! ## `State.setBusreq` -/

@[simp] theorem State.setBusreq_coCpuBusRequested (s : State) (b : Bool) : (s.setBusreq b).coCpuBusRequested = b := rfl
@[simp] theorem State.setBusreq_coCpuResetAsserted (s : State) (b : Bool) : (s.setBusreq b).coCpuResetAsserted = s.coCpuResetAsserted := rfl
@[simp] theorem State.setBusreq_penalty (s : State) (b : Bool) : (s.setBusreq b).penalty = s.penalty := rfl
@[simp] theorem State.setBusreq_deferredQueue (s : State) (b : Bool) : (s.setBusreq b).deferredQueue = s.deferredQueue := rfl
@[simp] theorem State.setBusreq_vdpVLine (s : State) (b : Bool) : (s.setBusreq b).vdpVLine = s.vdpVLine := rfl
@[simp] theorem State.setBusreq_vdpHLine (s : State) (b : Bool) : (s.setBusreq b).vdpHLine = s.vdpHLine := rfl
@[simp] theorem State.setBusreq_pendingMain (s : State) (b : Bool) : (s.setBusreq b).pendingMain = s.pendingMain := rfl
@[simp] theorem State.setBusreq_pendingCo (s : State) (b : Bool) : (s.setBusreq b).pendingCo = s.pendingCo := rfl
@[simp] theorem State.setBusreq_mainCpuFrozen (s : State) (b : Bool) : (s.setBusreq b).mainCpuFrozen = s.mainCpuFrozen := rfl
@[simp] theorem State.setBusreq_fatal (s : State) (b : Bool) : (s.setBusreq b).fatal = s.fatal := rfl
@[simp] theorem State.setBusreq_logicError (s : State) (b : Bool) : (s.setBusreq b).logicError = s.logicError := rfl
@[simp] theorem State.setBusreq_log (s : State) (b : Bool) : (s.setBusreq b).log = s.log := rfl
@[simp] theorem State.setBusreq_ram (s : State) (b : Bool) : (s.setBusreq b).ram = s.ram := rfl
@[simp] theorem State.setBusreq_comem (s : State) (b : Bool) : (s.setBusreq b).comem = s.comem := rfl
@[simp] theorem State.setBusreq_sram (s : State) (b : Bool) : (s.setBusreq b).sram = s.sram := rfl
@[simp] theorem State.setBusreq_eep (s : State) (b : Bool) : (s.setBusreq b).eep = s.eep := rfl
@[simp] theorem State.setBusreq_mapper (s : State) (b : Bool) : (s.setBusreq b).mapper = s.mapper := rfl
@[simp] theorem State.setBusreq_eeprom (s : State) (b : Bool) : (s.setBusreq b).eeprom = s.eeprom := rfl
@[simp] theorem State.setBusreq_dma (s : State) (b : Bool) : (s.setBusreq b).dma = s.dma := rfl
@[simp] theorem State.setBusreq_sched (s : State) (b : Bool) : (s.setBusreq b).sched = s.sched := rfl
@[simp] theorem State.setBusreq_memoryMode (s : State) (b : Bool) : (s.setBusreq b).memoryMode = s.memoryMode := rfl
@[simp] theorem State.setBusreq_tmssLatch (s : State) (b : Bool) : (s.setBusreq b).tmssLatch = s.tmssLatch := rfl
@[simp] theorem State.setBusreq_cfg (s : State) (b : Bool) : (s.setBusreq b).cfg = s.cfg := rfl
@[simp] theorem State.setBusreq_inbox (s : State) (b : Bool) : (s.setBusreq b).inbox = s.inbox := rfl
@[simp] theorem State.setBusreq_inputs (s : State) (b : Bool) : (s.setBusreq b).inputs = s.inputs := rfl
@[simp] theorem State.setBusreq_draws (s : State) (b : Bool) : (s.setBusreq b).draws = s.draws := rfl
@[simp] theorem State.setBusreq_epoch (s : State) (b : Bool) : (s.setBusreq b).epoch = s.epoch := rfl
@[simp] theorem State.setBusreq_closed (s : State) (b : Bool) : (s.setBusreq b).closed = s.closed := rfl
@[simp] theorem State.setBusreq_calls (s : State) (b : Bool) : (s.setBusreq b).calls = s.calls := rfl
@[simp] theorem State.setBusreq_replies (s : State) (b : Bool) : (s.setBusreq b).replies = s.replies := rfl

/-! ## `State.setOverlayMode` -/

@[simp] theorem State.setOverlayMode_coCpuBusRequested (s : State) (v : Word) : (s.setOverlayMode v).coCpuBusRequested = s.coCpuBusRequested := rfl
@[simp] theorem State.setOverlayMode_coCpuResetAsserted (s : State) (v : Word) : (s.setOverlayMode v).coCpuResetAsserted = s.coCpuResetAsserted := rfl
@[simp] theorem State.setOverlayMode_penalty (s : State) (v : Word) : (s.setOverlayMode v).penalty = s.penalty := rfl
@[simp] theorem State.setOverlayMode_deferredQueue (s : State) (v : Word) : (s.setOverlayMode v).deferredQueue = s.deferredQueue := rfl
@[simp] theorem State.setOverlayMode_vdpVLine (s : State) (v : Word) : (s.setOverlayMode v).vdpVLine = s.vdpVLine := rfl
@[simp] theorem State.setOverlayMode_vdpHLine (s : State) (v : Word) : (s.setOverlayMode v).vdpHLine = s.vdpHLine := rfl
@[simp] theorem State.setOverlayMode_pendingMain (s : State) (v : Word) : (s.setOverlayMode v).pendingMain = s.pendingMain := rfl
@[simp] theorem State.setOverlayMode_pendingCo (s : State) (v : Word) : (s.setOverlayMode v).pendingCo = s.pendingCo := rfl
@[simp] theorem State.setOverlayMode_mainCpuFrozen (s : State) (v : Word) : (s.setOverlayMode v).mainCpuFrozen = s.mainCpuFrozen := rfl
@[simp] theorem State.setOverlayMode_fatal (s : State) (v : Word) : (s.setOverlayMode v).fatal = s.fatal := rfl
@[simp] theorem State.setOverlayMode_logicError (s : State) (v : Word) : (s.setOverlayMode v).logicError = s.logicError := rfl
@[simp] theorem State.setOverlayMode_log (s : State) (v : Word) : (s.setOverlayMode v).log = s.log := rfl
@[simp] theorem State.setOverlayMode_ram (s : State) (v : Word) : (s.setOverlayMode v).ram = s.ram := rfl
@[simp] theorem State.setOverlayMode_comem (s : State) (v : Word) : (s.setOverlayMode v).comem = s.comem := rfl
@[simp] theorem State.setOverlayMode_sram (s : State) (v : Word) : (s.setOverlayMode v).sram = s.sram := rfl
@[simp] theorem State.setOverlayMode_eep (s : State) (v : Word) : (s.setOverlayMode v).eep = s.eep := rfl
@[simp] theorem State.setOverlayMode_mapper (s : State) (v : Word) : (s.setOverlayMode v).mapper = { s.mapper with overlayMode := overlayModeOf v } := rfl
@[simp] theorem State.setOverlayMode_eeprom (s : State) (v : Word) : (s.setOverlayMode v).eeprom = s.eeprom := rfl
@[simp] theorem State.setOverlayMode_dma (s : State) (v : Word) : (s.setOverlayMode v).dma = s.dma := rfl
@[simp] theorem State.setOverlayMode_sched (s : State) (v : Word) : (s.setOverlayMode v).sched = s.sched := rfl
@[simp] theorem State.setOverlayMode_memoryMode (s : State) (v : Word) : (s.setOverlayMode v).memoryMode = s.memoryMode := rfl
@[simp] theorem State.setOverlayMode_tmssLatch (s : State) (v : Word) : (s.setOverlayMode v).tmssLatch = s.tmssLatch := rfl
@[simp] theorem State.setOverlayMode_cfg (s : State) (v : Word) : (s.setOverlayMode v).cfg = s.cfg := rfl
@[simp] theorem State.setOverlayMode_inbox (s : State) (v : Word) : (s.setOverlayMode v).inbox = s.inbox := rfl
@[simp] theorem State.setOverlayMode_inputs (s : State) (v : Word) : (s.setOverlayMode v).inputs = s.inputs := rfl
@[simp] theorem State.setOverlayMode_draws (s : State) (v : Word) : (s.setOverlayMode v).draws = s.draws := rfl
@[simp] theorem State.setOverlayMode_epoch (s : State) (v : Word) : (s.setOverlayMode v).epoch = s.epoch := rfl
@[simp] theorem State.setOverlayMode_closed (s : State) (v : Word) : (s.setOverlayMode v).closed = s.closed := rfl
@[simp] theorem State.setOverlayMode_calls (s : State) (v : Word) : (s.setOverlayMode v).calls = s.calls := rfl
@[simp] theorem State.setOverlayMode_replies (s : State) (v : Word) : (s.setOverlayMode v).replies = s.replies := rfl

/-! ## `State.sampleLines` -/

@[simp] theorem State.sampleLines_coCpuBusRequested (s : State) (c d : Bool) : (s.sampleLines c d).coCpuBusRequested = s.coCpuBusRequested := rfl
@[simp] theorem State.sampleLines_coCpuResetAsserted (s : State) (c d : Bool) : (s.sampleLines c d).coCpuResetAsserted = s.coCpuResetAsserted := rfl
@[simp] theorem State.sampleLines_penalty (s : State) (c d : Bool) : (s.sampleLines c d).penalty = s.penalty := rfl
@[simp] theorem State.sampleLines_deferredQueue (s : State) (c d : Bool) : (s.sampleLines c d).deferredQueue = s.deferredQueue := rfl
@[simp] theorem State.sampleLines_vdpVLine (s : State) (c d : Bool) : (s.sampleLines c d).vdpVLine = s.vdpVLine := rfl
@[simp] theorem State.sampleLines_vdpHLine (s : State) (c d : Bool) : (s.sampleLines c d).vdpHLine = s.vdpHLine := rfl
@[simp] theorem State.sampleLines_pendingMain (s : State) (c d : Bool) : (s.sampleLines c d).pendingMain = s.pendingMain := rfl
@[simp] theorem State.sampleLines_pendingCo (s : State) (c d : Bool) : (s.sampleLines c d).pendingCo = s.pendingCo := rfl
@[simp] theorem State.sampleLines_mainCpuFrozen (s : State) (c d : Bool) : (s.sampleLines c d).mainCpuFrozen = s.mainCpuFrozen := rfl
@[simp] theorem State.sampleLines_fatal (s : State) (c d : Bool) : (s.sampleLines c d).fatal = s.fatal := rfl
@[simp] theorem State.sampleLines_logicError (s : State) (c d : Bool) : (s.sampleLines c d).logicError = s.logicError := rfl
@[simp] theorem State.sampleLines_log (s : State) (c d : Bool) : (s.sampleLines c d).log = s.log := rfl
@[simp] theorem State.sampleLines_ram (s : State) (c d : Bool) : (s.sampleLines c d).ram = s.ram := rfl
@[simp] theorem State.sampleLines_comem (s : State) (c d : Bool) : (s.sampleLines c d).comem = s.comem := rfl
@[simp] theorem State.sampleLines_sram (s : State) (c d : Bool) : (s.sampleLines c d).sram = s.sram := rfl
@[simp] theorem State.sampleLines_eep (s : State) (c d : Bool) : (s.sampleLines c d).eep = s.eep := rfl
@[simp] theorem State.sampleLines_mapper (s : State) (c d : Bool) : (s.sampleLines c d).mapper = s.mapper := rfl
@[simp] theorem State.sampleLines_dma (s : State) (c d : Bool) : (s.sampleLines c d).dma = s.dma := rfl
@[simp] theorem State.sampleLines_sched (s : State) (c d : Bool) : (s.sampleLines c d).sched = s.sched := rfl
@[simp] theorem State.sampleLines_memoryMode (s : State) (c d : Bool) : (s.sampleLines c d).memoryMode = s.memoryMode := rfl
@[simp] theorem State.sampleLines_tmssLatch (s : State) (c d : Bool) : (s.sampleLines c d).tmssLatch = s.tmssLatch := rfl
@[simp] theorem State.sampleLines_cfg (s : State) (c d : Bool) : (s.sampleLines c d).cfg = s.cfg := rfl
@[simp] theorem State.sampleLines_inbox (s : State) (c d : Bool) : (s.sampleLines c d).inbox = s.inbox := rfl
@[simp] theorem State.sampleLines_inputs (s : State) (c d : Bool) : (s.sampleLines c d).inputs = s.inputs := rfl
@[simp] theorem State.sampleLines_draws (s : State) (c d : Bool) : (s.sampleLines c d).draws = s.draws := rfl
@[simp] theorem State.sampleLines_epoch (s : State) (c d : Bool) : (s.sampleLines c d).epoch = s.epoch := rfl
@[simp] theorem State.sampleLines_closed (s : State) (c d : Bool) : (s.sampleLines c d).closed = s.closed := rfl
@[simp] theorem State.sampleLines_calls (s : State) (c d : Bool) : (s.sampleLines c d).calls = s.calls := rfl
@[simp] theorem State.sampleLines_replies (s : State) (c d : Bool) : (s.sampleLines c d).replies = s.replies := rfl

/-! ## `State.present` -/

@[simp] theorem State.present_coCpuBusRequested (s : State) (r : List Byte) : (s.present r).coCpuBusRequested = s.coCpuBusRequested := rfl
@[simp] theorem State.present_coCpuResetAsserted (s : State) (r : List Byte) : (s.present r).coCpuResetAsserted = s.coCpuResetAsserted := rfl
@[simp] theorem State.present_penalty (s : State) (r : List Byte) : (s.present r).penalty = s.penalty := rfl
@[simp] theorem State.present_deferredQueue (s : State) (r : List Byte) : (s.present r).deferredQueue = s.deferredQueue := rfl
@[simp] theorem State.present_vdpVLine (s : State) (r : List Byte) : (s.present r).vdpVLine = s.vdpVLine := rfl
@[simp] theorem State.present_vdpHLine (s : State) (r : List Byte) : (s.present r).vdpHLine = s.vdpHLine := rfl
@[simp] theorem State.present_pendingMain (s : State) (r : List Byte) : (s.present r).pendingMain = s.pendingMain := rfl
@[simp] theorem State.present_pendingCo (s : State) (r : List Byte) : (s.present r).pendingCo = s.pendingCo := rfl
@[simp] theorem State.present_mainCpuFrozen (s : State) (r : List Byte) : (s.present r).mainCpuFrozen = s.mainCpuFrozen := rfl
@[simp] theorem State.present_fatal (s : State) (r : List Byte) : (s.present r).fatal = s.fatal := rfl
@[simp] theorem State.present_logicError (s : State) (r : List Byte) : (s.present r).logicError = s.logicError := rfl
@[simp] theorem State.present_log (s : State) (r : List Byte) : (s.present r).log = s.log := rfl
@[simp] theorem State.present_ram (s : State) (r : List Byte) : (s.present r).ram = s.ram := rfl
@[simp] theorem State.present_comem (s : State) (r : List Byte) : (s.present r).comem = s.comem := rfl
@[simp] theorem State.present_sram (s : State) (r : List Byte) : (s.present r).sram = s.sram := rfl
@[simp] theorem State.present_eep (s : State) (r : List Byte) : (s.present r).eep = s.eep := rfl
@[simp] theorem State.present_mapper (s : State) (r : List Byte) : (s.present r).mapper = s.mapper := rfl
@[simp] theorem State.present_eeprom (s : State) (r : List Byte) : (s.present r).eeprom = s.eeprom := rfl
@[simp] theorem State.present_dma (s : State) (r : List Byte) : (s.present r).dma = s.dma := rfl
@[simp] theorem State.present_sched (s : State) (r : List Byte) : (s.present r).sched = s.sched := rfl
@[simp] theorem State.present_memoryMode (s : State) (r : List Byte) : (s.present r).memoryMode = s.memoryMode := rfl
@[simp] theorem State.present_tmssLatch (s : State) (r : List Byte) : (s.present r).tmssLatch = s.tmssLatch := rfl
@[simp] theorem State.present_cfg (s : State) (r : List Byte) : (s.present r).cfg = s.cfg := rfl
@[simp] theorem State.present_inbox (s : State) (r : List Byte) : (s.present r).inbox = r :: s.inbox := rfl
@[simp] theorem State.present_inputs (s : State) (r : List Byte) : (s.present r).inputs = s.inputs := rfl
@[simp] theorem State.present_draws (s : State) (r : List Byte) : (s.present r).draws = s.draws := rfl
@[simp] theorem State.present_epoch (s : State) (r : List Byte) : (s.present r).epoch = s.epoch := rfl
@[simp] theorem State.present_closed (s : State) (r : List Byte) : (s.present r).closed = s.closed := rfl
@[simp] theorem State.present_calls (s : State) (r : List Byte) : (s.present r).calls = s.calls := rfl
@[simp] theorem State.present_replies (s : State) (r : List Byte) : (s.present r).replies = s.replies := rfl

/-! ## Per CPU -/

@[simp] theorem State.addPenalty_main (s : State) (n : Nat) :
    (s.addPenalty .main n).penalty = ⟨s.penalty.main + n, s.penalty.co⟩ := rfl
@[simp] theorem State.addPenalty_co (s : State) (n : Nat) :
    (s.addPenalty .co n).penalty = ⟨s.penalty.main, s.penalty.co + n⟩ := rfl
@[simp] theorem State.clearPenalty_main (s : State) : (s.clearPenalty .main).penalty = ⟨0, s.penalty.co⟩ := rfl
@[simp] theorem State.clearPenalty_co (s : State) : (s.clearPenalty .co).penalty = ⟨s.penalty.main, 0⟩ := rfl
@[simp] theorem State.iack_main_own (s : State) (w : Irq) : (s.iack .main w).pendingMain = s.pendingMain.clear w := rfl
@[simp] theorem State.iack_main_other (s : State) (w : Irq) : (s.iack .main w).pendingCo = s.pendingCo := rfl
@[simp] theorem State.iack_co_own (s : State) (w : Irq) : (s.iack .co w).pendingCo = s.pendingCo.clear w := rfl
@[simp] theorem State.iack_co_other (s : State) (w : Irq) : (s.iack .co w).pendingMain = s.pendingMain := rfl

/-! ## The EEPROM's line sample -/

@[simp] theorem State.sampleLines_state (s : State) (c d : Bool) : (s.sampleLines c d).eeprom.state = s.eeprom.state := rfl
@[simp] theorem State.sampleLines_bitCounter (s : State) (c d : Bool) :
    (s.sampleLines c d).eeprom.bitCounter = s.eeprom.bitCounter := rfl
@[simp] theorem State.sampleLines_clockLine (s : State) (c d : Bool) : (s.sampleLines c d).eeprom.clockLine = c := rfl
@[simp] theorem State.sampleLines_dataLine (s : State) (c d : Bool) : (s.sampleLines c d).eeprom.dataLine = d := rfl
@[simp] theorem State.sampleLines_previousClockLine (s : State) (c d : Bool) :
    (s.sampleLines c d).eeprom.previousClockLine = s.eeprom.clockLine := rfl
@[simp] theorem State.sampleLines_previousDataLine (s : State) (c d : Bool) :
    (s.sampleLines c d).eeprom.previousDataLine = s.eeprom.dataLine := rfl

/-! ## How a meaning ends -/

@[simp] theorem whenSelected_true (k : Host.Outcome State Fault Refusal) : whenSelected true k = k := rfl
@[simp] theorem whenSelected_false (k : Host.Outcome State Fault Refusal) :
    whenSelected false k = .refused .rowNotSelected := rfl
@[simp] theorem ofExcept_ok (s : State) : ofExcept (.ok s) = .next s := rfl
@[simp] theorem ofExcept_error (r : Refusal) : ofExcept (.error r) = .refused r := rfl

/-- A selected row answers what its meaning answers, and only a selected row answers a next state. -/
theorem whenSelected_next {c : Bool} {k : Host.Outcome State Fault Refusal} {t : State} :
    whenSelected c k = .next t ↔ c = true ∧ k = .next t := by
  cases c <;> simp [whenSelected]

/-- A next state comes from a success. -/
theorem ofExcept_next {r : Except Refusal State} {t : State} : ofExcept r = .next t ↔ r = .ok t := by
  cases r <;> simp [ofExcept]

/-! ## The collaborator questions -/

@[simp] theorem State.askDataPort_eq (s : State) :
    s.askDataPort = s.ask .readDataPort { s.inputs with dataPort := s.inputs.dataPort.tail } := rfl
@[simp] theorem State.askControl_eq (s : State) :
    s.askControl = s.ask .readControl { s.inputs with control := s.inputs.control.tail } := rfl
@[simp] theorem State.askVCounter_eq (s : State) :
    s.askVCounter = s.ask .getVCounter { s.inputs with vCounter := s.inputs.vCounter.tail } := rfl
@[simp] theorem State.askHCounter_eq (s : State) :
    s.askHCounter = s.ask .getHCounter { s.inputs with hCounter := s.inputs.hCounter.tail } := rfl
@[simp] theorem State.askIo_eq (s : State) (o : Addr) :
    s.askIo o = s.ask (.ioRead o) { s.inputs with ioRead := s.inputs.ioRead.tail } := rfl
@[simp] theorem State.askVdpMem_eq (s : State) (t : VdpTarget) (a : Word) :
    s.askVdpMem t a = s.ask (.vdpMemRead t a) { s.inputs with vdpMem := s.inputs.vdpMem.tail } := rfl
@[simp] theorem State.askPort_eq (s : State) (p : Port) (w : Word) :
    s.askPort p w = s.ask (.writeVdpPortWord p w) { s.inputs with port := s.inputs.port.tail } := rfl
@[simp] theorem State.askMainUnit_eq (s : State) :
    s.askMainUnit = s.ask .mainStep { s.inputs with mainUnits := s.inputs.mainUnits.tail } := rfl
@[simp] theorem State.askCoUnit_eq (s : State) :
    s.askCoUnit = s.ask .coStep { s.inputs with coUnits := s.inputs.coUnits.tail } := rfl
@[simp] theorem State.askVdpUnit_eq (s : State) :
    s.askVdpUnit = s.ask .vdpSlot { s.inputs with vdpUnits := s.inputs.vdpUnits.tail } := rfl
@[simp] theorem State.askAudioUnit_eq (s : State) :
    s.askAudioUnit = s.ask (.soundTick s.audioUnit.micros) { s.inputs with audioUnits := s.inputs.audioUnits.tail } := rfl

end Sys2Proof.Machine
end

