-- ==== Sys2Proof/Laws/Memory.lean ====
section
/-! SUPPORT. The byte stores: a read after a write, the canonical form kept by every write, and the same for the four stores of
State. -/

namespace Sys2Proof

/-- A read after a write: the byte written at its index, and what was there before everywhere else. -/
theorem Memory.read_write (m : Memory) (k i : Nat) (v : Byte) :
    (Memory.write m k v).read? i = if i = k then some v else m.read? i := by
  induction m with
  | nil =>
    by_cases h : i = k
    · simp [Memory.write, Memory.read?, h]
    · simp [Memory.write, Memory.read?, h, Ne.symm h]
  | cons c m ih =>
    obtain ⟨j, b⟩ := c
    unfold Memory.write
    by_cases h : i = k
    · subst h
      split
      · simp [Memory.read?]
      · split
        · simp [Memory.read?]
        · next h2 => simp [Memory.read?, Ne.symm h2, ih]
    · split
      · simp [Memory.read?, Ne.symm h]
      · split
        · next h2 => subst h2; simp [Memory.read?, Ne.symm h]
        · simp [Memory.read?, ih, h]

/-- Every index a write leaves listed is the one written or was listed before. -/
theorem Memory.mem_write {m : Memory} {k : Nat} {v : Byte} {c : Host.Cell} (h : c ∈ Memory.write m k v) :
    c = (k, v) ∨ c ∈ m := by
  induction m with
  | nil => simpa [Memory.write] using h
  | cons d m ih =>
    obtain ⟨j, b⟩ := d
    unfold Memory.write at h
    split at h
    · simpa using h
    · split at h
      · simp only [List.mem_cons] at h ⊢; tauto
      · simp only [List.mem_cons] at h ⊢
        rcases h with h | h
        · tauto
        · rcases ih h with h | h <;> tauto

/-- A write keeps the canonical form. -/
theorem Memory.write_wf {m : Memory} (k : Nat) (v : Byte) (h : m.wf) : (Memory.write m k v).wf := by
  induction m with
  | nil => simp [Memory.write, Memory.wf]
  | cons c m ih =>
    obtain ⟨j, b⟩ := c
    have hc := List.pairwise_cons.mp h
    unfold Memory.write
    split
    · refine List.pairwise_cons.mpr ⟨fun d hd => ?_, h⟩
      rcases List.mem_cons.mp hd with hd | hd
      · subst hd; assumption
      · have := hc.1 d hd; simp only at this ⊢; omega
    · split
      · subst_vars; exact List.pairwise_cons.mpr ⟨hc.1, hc.2⟩
      · refine List.pairwise_cons.mpr ⟨fun d hd => ?_, ih hc.2⟩
        rcases Memory.mem_write hd with hd | hd
        · subst hd; simp only; omega
        · exact hc.1 d hd

/-- A write below a size keeps the store below it. -/
theorem Memory.write_below {m : Memory} {n : Nat} {k : Nat} (v : Byte) (hk : k < n) (h : m.below n) :
    (Memory.write m k v).below n := by
  intro c hc
  rcases Memory.mem_write hc with hc | hc
  · subst hc; exact hk
  · exact h c hc

/-- The empty store is canonical. -/
theorem Memory.wf_nil : Memory.wf [] := List.Pairwise.nil

/-- The empty store lists nothing. -/
theorem Memory.below_nil (n : Nat) : Memory.below [] n := by intro c hc; cases hc

end Sys2Proof

namespace Sys2Proof.Machine

/-- `ram` after one byte. -/
theorem State.ramByte_write (s : State) (k i : Nat) (v : Byte) :
    State.ramByte { s with ram := s.ram.write k v } i = if i = k then v else s.ramByte i := by
  simp only [State.ramByte, Memory.read_write]; split <;> rfl

/-- `comem` after one byte. -/
theorem State.comemByte_write (s : State) (k i : Nat) (v : Byte) :
    State.comemByte { s with comem := s.comem.write k v } i = if i = k then v else s.comemByte i := by
  simp only [State.comemByte, Memory.read_write]; split <;> rfl

/-- `sram` after one byte. -/
theorem State.sramByte_write (s : State) (k i : Nat) (v : Byte) :
    State.sramByte { s with sram := s.sram.write k v } i = if i = k then v else s.sramByte i := by
  simp only [State.sramByte, Memory.read_write]; split <;> rfl

/-- `eep` after one byte. -/
theorem State.eepByte_write (s : State) (k i : Nat) (v : Byte) :
    State.eepByte { s with eep := s.eep.write k v } i = if i = k then v else s.eepByte i := by
  simp only [State.eepByte, Memory.read_write]; split <;> rfl

end Sys2Proof.Machine
end

