-- ==== Sys2Proof/Laws/Frames.lean ====
section
/-! SUPPORT. What each shared operation leaves alone, said once for each. A frame is an equation `t.offX = s.offX` where `offX` forgets
the fields the operation may touch: frames compose by transitivity, a finer frame gives a coarser one by `congrArg`, and any
untouched field is read off by `congrArg`. -/

namespace Sys2Proof.Machine

/-! ## The views -/

/-- Everything but the EEPROM device. -/
def State.offEeprom (s : State) : State := { s with eeprom := EepromState.reset, eep := [] }

/-- Everything but what a cartridge write can touch. -/
def State.offCart (s : State) : State := { s with log := [], sram := [], eep := [], eeprom := EepromState.reset }

/-- Everything but what a control-register write can touch. -/
def State.offReg (s : State) : State :=
  { s with
    coCpuBusRequested := false
    coCpuResetAsserted := false
    log := []
    mapper := ⟨.linear, 0, .disabled⟩
    memoryMode := 0#16
    tmssLatch := 0#16
    calls := [] }

/-- Everything but what a VDP write can touch. -/
def State.offVdp (s : State) : State :=
  { s with log := [], deferredQueue := [], dma := DmaState.reset, calls := [], inputs := Inputs.empty, draws := 0 }

/-- Everything but what a drain can touch. -/
def State.offReady (s : State) : State :=
  { s with
    log := []
    logicError := false
    deferredQueue := []
    dma := DmaState.reset
    calls := []
    inputs := Inputs.empty
    draws := 0 }

/-- Everything but what a bus read can touch. -/
def State.offRead (s : State) : State :=
  { s with penalty := ⟨0, s.penalty.co⟩, log := [], calls := [], inputs := Inputs.empty, draws := 0 }

/-- Everything but what a DMA slot can touch. -/
def State.offSlot (s : State) : State := { s.offReady with penalty := ⟨0, s.penalty.co⟩ }

/-- Everything but what a bus write can touch. -/
def State.offWrite (s : State) : State :=
  { s with
    coCpuBusRequested := false
    coCpuResetAsserted := false
    penalty := ⟨0, s.penalty.co⟩
    deferredQueue := []
    fatal := none
    log := []
    ram := []
    comem := []
    sram := []
    eep := []
    mapper := ⟨.linear, 0, .disabled⟩
    eeprom := EepromState.reset
    dma := DmaState.reset
    memoryMode := 0#16
    tmssLatch := 0#16
    inputs := Inputs.empty
    draws := 0
    calls := []
    replies := [] }

/-- A frame is a record update: only the forgotten fields differ. -/
theorem State.of_offEeprom {s t : State} (h : t.offEeprom = s.offEeprom) :
    t = { s with eeprom := t.eeprom, eep := t.eep } :=
  congrArg (fun x : State => { x with eeprom := t.eeprom, eep := t.eep }) h

theorem State.of_offCart {s t : State} (h : t.offCart = s.offCart) :
    t = { s with log := t.log, sram := t.sram, eep := t.eep, eeprom := t.eeprom } :=
  congrArg (fun x : State => { x with log := t.log, sram := t.sram, eep := t.eep, eeprom := t.eeprom }) h

theorem State.of_offReg {s t : State} (h : t.offReg = s.offReg) :
    t = { s with
      coCpuBusRequested := t.coCpuBusRequested
      coCpuResetAsserted := t.coCpuResetAsserted
      log := t.log
      mapper := t.mapper
      memoryMode := t.memoryMode
      tmssLatch := t.tmssLatch
      calls := t.calls } :=
  congrArg (fun x : State => { x with
    coCpuBusRequested := t.coCpuBusRequested
    coCpuResetAsserted := t.coCpuResetAsserted
    log := t.log
    mapper := t.mapper
    memoryMode := t.memoryMode
    tmssLatch := t.tmssLatch
    calls := t.calls }) h

theorem State.of_offVdp {s t : State} (h : t.offVdp = s.offVdp) :
    t = { s with
      log := t.log
      deferredQueue := t.deferredQueue
      dma := t.dma
      calls := t.calls
      inputs := t.inputs
      draws := t.draws } :=
  congrArg (fun x : State => { x with
    log := t.log
    deferredQueue := t.deferredQueue
    dma := t.dma
    calls := t.calls
    inputs := t.inputs
    draws := t.draws }) h

theorem State.of_offRead {s t : State} (h : t.offRead = s.offRead) :
    t = { s with
      penalty := ⟨t.penalty.main, s.penalty.co⟩
      log := t.log
      calls := t.calls
      inputs := t.inputs
      draws := t.draws } :=
  congrArg (fun x : State => { x with
    penalty := ⟨t.penalty.main, x.penalty.co⟩
    log := t.log
    calls := t.calls
    inputs := t.inputs
    draws := t.draws }) h

/-! A finer frame gives a coarser one. -/

theorem State.offCart_of_offEeprom {s t : State} (h : t.offEeprom = s.offEeprom) : t.offCart = s.offCart :=
  (congrArg State.offCart h : t.offEeprom.offCart = s.offEeprom.offCart)

theorem State.offWrite_of_offCart {s t : State} (h : t.offCart = s.offCart) : t.offWrite = s.offWrite :=
  (congrArg State.offWrite h : t.offCart.offWrite = s.offCart.offWrite)

theorem State.offWrite_of_offReg {s t : State} (h : t.offReg = s.offReg) : t.offWrite = s.offWrite :=
  (congrArg State.offWrite h : t.offReg.offWrite = s.offReg.offWrite)

theorem State.offWrite_of_offVdp {s t : State} (h : t.offVdp = s.offVdp) : t.offWrite = s.offWrite :=
  (congrArg State.offWrite h : t.offVdp.offWrite = s.offVdp.offWrite)

theorem State.offReady_of_offVdp {s t : State} (h : t.offVdp = s.offVdp) : t.offReady = s.offReady :=
  (congrArg State.offReady h : t.offVdp.offReady = s.offVdp.offReady)

theorem State.offSlot_of_offReady {s t : State} (h : t.offReady = s.offReady) : t.offSlot = s.offSlot :=
  (congrArg State.offSlot h : t.offReady.offSlot = s.offReady.offSlot)

theorem State.offSlot_of_offRead {s t : State} (h : t.offRead = s.offRead) : t.offSlot = s.offSlot :=
  (congrArg State.offSlot h : t.offRead.offSlot = s.offRead.offSlot)

/-! ## EEPROM -/

theorem State.gwaRise_frame (s : State) : s.gwaRise = { s with eeprom := s.gwaRise.eeprom } := by
  unfold State.gwaRise; dsimp only; split_ifs <;> rfl

theorem State.gwaFall_frame (s : State) : s.gwaFall = { s with eeprom := s.gwaFall.eeprom } := by
  unfold State.gwaFall; dsimp only; split_ifs <;> rfl

theorem State.writeRise_frame (s : State) : s.writeRise = { s with eeprom := s.writeRise.eeprom } := by
  unfold State.writeRise; dsimp only; split_ifs <;> rfl

theorem State.writeFall_frame (s : State) :
    s.writeFall = { s with eeprom := s.writeFall.eeprom, eep := s.writeFall.eep } := by
  unfold State.writeFall; dsimp only; split_ifs <;> rfl

theorem State.readRise_frame (s : State) : s.readRise = { s with eeprom := s.readRise.eeprom } := by
  unfold State.readRise; dsimp only; split_ifs <;> rfl

theorem State.readFall_frame (s : State) : s.readFall = { s with eeprom := s.readFall.eeprom } := by
  unfold State.readFall; dsimp only; split_ifs <;> rfl

theorem State.lineEvent_frame (s : State) (e : LineEvent) : (s.lineEvent e).offEeprom = s.offEeprom := by
  cases e <;> simp only [State.lineEvent]
  · rfl
  · rfl
  · split
    · rfl
    · rw [State.gwaRise_frame]; rfl
    · rw [State.writeRise_frame]; rfl
    · rw [State.readRise_frame]; rfl
    · rfl
  · split
    · rfl
    · rw [State.gwaFall_frame]; rfl
    · rw [State.writeFall_frame]; rfl
    · rw [State.readFall_frame]; rfl
    · rfl

/-- A sample touches the EEPROM device alone (R190, R191). -/
theorem State.eepStep_frame (s : State) (c d : Bool) : (s.eepStep c d).offEeprom = s.offEeprom :=
  (State.lineEvent_frame (s.sampleLines c d) _).trans rfl

/-! ## BankMapper and control registers -/

/-- A device write touches the device alone (R171, R172). -/
theorem State.devWrite_frame (s : State) (o : Overlay) (a : Addr) (v : Datum) :
    (s.devWrite o a v).offCart = s.offCart := by
  unfold State.devWrite
  split
  · cases v <;> rfl
  · exact State.offCart_of_offEeprom (State.eepStep_frame s _ _)

/-- A cartridge write touches the devices and the log (R163, R166, R169). -/
theorem State.batWrite_frame (s : State) (a : Addr) (v : Datum) : (s.batWrite a v).offCart = s.offCart := by
  unfold State.batWrite
  split
  · rfl
  · split
    · exact State.devWrite_frame s _ a v
    · split <;> rfl

theorem State.mapWrite_frame (s : State) (a : Addr) (v : Datum) : (s.mapWrite a v).offCart = s.offCart := by
  unfold State.mapWrite
  split
  · rfl
  · rfl
  · exact State.batWrite_frame s a v

/-- A mapper-control write touches the mapper and the log (R164, R167, R170). -/
theorem State.mapBanksel_frame (s : State) (a : Addr) (val : Word) : (s.mapBanksel a val).offReg = s.offReg := by
  unfold State.mapBanksel State.batBanksel
  split
  · rfl
  · rfl
  · split <;> rfl

theorem State.busreqWrite_frame (s : State) (a : Addr) (val : Word) : (s.busreqWrite a val).offReg = s.offReg := by
  unfold State.busreqWrite; split_ifs <;> rfl

theorem State.coresetAssert_frame (s : State) (a : Addr) : (s.coresetAssert a).offReg = s.offReg := by
  unfold State.coresetAssert; split_ifs <;> rfl

theorem State.coresetWrite_frame (s : State) (a : Addr) (val : Word) : (s.coresetWrite a val).offReg = s.offReg := by
  unfold State.coresetWrite
  split_ifs
  · exact State.coresetAssert_frame s a
  · rfl
  · rfl

/-- A control-register write touches the registers, the mapper, the log and the co-CPU's reset call (R113). -/
theorem State.regWrite_frame (s : State) (a : Addr) (v : Datum) : (s.regWrite a v).offReg = s.offReg := by
  unfold State.regWrite
  split
  · rfl
  · exact State.busreqWrite_frame s a _
  · exact State.coresetWrite_frame s a _
  · exact State.mapBanksel_frame s a _
  · rfl
  · rfl

/-- A control-register read touches the log alone (R112). -/
theorem State.regRead_frame (s : State) (n : Width) (a : Addr) :
    (s.regRead n a).1 = { s with log := (s.regRead n a).1.log } := by
  unfold State.regRead; split <;> rfl

/-! ## VDP -/

/-- A VDP read touches the log and the collaborator questions (R114). -/
theorem State.vdpRead_frame (s : State) (n : Width) (a : Addr) : (s.vdpRead n a).1.offRead = s.offRead := by
  unfold State.vdpRead State.vdpReadWord
  dsimp only
  split <;> rfl

/-- DMA.START touches the engine alone (R221). -/
theorem State.startDma_ok {s t : State} {o : DmaOperands} :
    s.startDma o = .ok t ↔ (1 ≤ o.length ∧ s.dma.mode = .none) ∧ t = s.loadDma o := by
  unfold State.startDma
  split
  · simp [*, eq_comm]
  · simp [*]

/-- A forwarded word touches the engine and the collaborator questions (R115). -/
theorem State.portWrite_frame {s t : State} {p : Port} {w : Word} (h : s.portWrite p w = .ok t) :
    t.offVdp = s.offVdp := by
  unfold State.portWrite at h
  dsimp only at h
  split at h
  · cases h; cases p <;> rfl
  · obtain ⟨-, rfl⟩ := State.startDma_ok.mp h
    cases p <;> rfl

/-- A VDP write touches the log, the deferred queue, the engine and the collaborator questions (R115, R118). -/
theorem State.vdpWrite_frame {s t : State} {x : Addr} {v : Datum} (h : s.vdpWrite x v = .ok t) :
    t.offVdp = s.offVdp := by
  unfold State.vdpWrite State.vdpForward at h
  split at h
  · cases h; rfl
  · cases h; rfl
  all_goals
    split at h
    · exact State.portWrite_frame h
    · cases h; rfl

/-! ## SystemBus -/

theorem State.coRead_frame (s : State) (n : Width) (a : Addr) : (s.coRead n a).1.offRead = s.offRead := by
  unfold State.coRead
  dsimp only
  split
  · cases n <;> rfl
  · rfl

theorem State.ioByte_frame (s : State) (o : Addr) : (s.ioByte o).1.offRead = s.offRead := by
  unfold State.ioByte; split <;> rfl

theorem State.ioRead_frame (s : State) (n : Width) (a : Addr) : (s.ioRead n a).1.offRead = s.offRead := by
  unfold State.ioRead
  cases n
  · exact State.ioByte_frame s _
  · exact (State.ioByte_frame _ _).trans (State.ioByte_frame s _)

theorem State.ioPut_frame (s : State) (o : Addr) (b : Byte) :
    s.ioPut o b = { s with log := (s.ioPut o b).log, calls := (s.ioPut o b).calls } := by
  unfold State.ioPut; split <;> rfl

/-- A handler read touches what a bus read can touch. -/
theorem State.readHandler_frame (s : State) (g : Region) (n : Width) (a : Addr) :
    (s.readHandler g n a).1.offRead = s.offRead := by
  cases g <;> simp only [State.readHandler]
  · rfl
  · exact State.coRead_frame s n a
  · exact State.ioRead_frame s n a
  · rw [State.regRead_frame]; rfl
  · exact State.vdpRead_frame s n a
  · rfl

/-- A handler answers a WORD with a WORD (R71). -/
theorem State.readHandler_word (s : State) (g : Region) (a : Addr) : ∃ w, (s.readHandler g .word a).2 = .word w := by
  cases g <;> simp only [State.readHandler]
  · unfold State.mapRead State.linRead State.pagRead State.batRead State.linRead State.devRead
    split
    · exact ⟨_, rfl⟩
    · exact ⟨_, rfl⟩
    · split
      · exact ⟨_, rfl⟩
      · split
        · split <;> exact ⟨_, rfl⟩
        · exact ⟨_, rfl⟩
  · exact ⟨_, rfl⟩
  · exact ⟨_, rfl⟩
  · unfold State.coRead; dsimp only; split <;> exact ⟨_, rfl⟩
  · exact ⟨_, rfl⟩
  · unfold State.regRead; split <;> exact ⟨_, rfl⟩
  · exact ⟨_, rfl⟩
  · exact ⟨_, rfl⟩

/-- A bus read touches the main CPU's penalty, the log and the collaborator questions (R100). -/
theorem State.memRead_frame (s : State) (n : Size) (addr : BitVec 32) : (s.memRead n addr).1.offRead = s.offRead := by
  unfold State.memRead
  dsimp only
  split
  · rfl
  · unfold State.readBy
    cases n
    · exact State.readHandler_frame s _ _ _
    · exact State.readHandler_frame s _ _ _
    · exact (State.readHandler_frame _ _ _ _).trans (State.readHandler_frame s _ _ _)

/-- The bus answers a WORD with a WORD (R100). -/
theorem State.memRead_word (s : State) (addr : BitVec 32) : ∃ w, (s.memRead .word addr).2 = .word w := by
  unfold State.memRead
  dsimp only
  split
  · exact ⟨_, rfl⟩
  · obtain ⟨w, hw⟩ := State.readHandler_word s (s.region (mask24 addr)) (mask24 addr)
    exact ⟨w, congrArg Datum.toBus hw⟩

/-- A handler write touches what a bus write can touch. -/
theorem State.writeHandler_frame {s t : State} {g : Region} {a : Addr} {v : Datum}
    (h : s.writeHandler g a v = .ok t) : t.offWrite = s.offWrite := by
  cases g <;> simp only [State.writeHandler, Except.ok.injEq] at h
  · subst h; exact State.offWrite_of_offCart (State.mapWrite_frame s a v)
  · subst h; cases v <;> rfl
  · subst h; rfl
  · subst h; unfold State.coWrite; dsimp only; split <;> rfl
  · subst h
    cases v
    · simp only [State.ioWrite]; rw [State.ioPut_frame]; rfl
    · simp only [State.ioWrite]; rw [State.ioPut_frame, State.ioPut_frame]; rfl
  · subst h; exact State.offWrite_of_offReg (State.regWrite_frame s a v)
  · exact State.offWrite_of_offVdp (State.vdpWrite_frame h)
  · subst h; rfl

/-- A bus write (R101). -/
theorem State.memWrite_frame {s t : State} {addr : BitVec 32} {v : BusDatum} (h : s.memWrite addr v = .ok t) :
    t.offWrite = s.offWrite := by
  unfold State.memWrite at h
  dsimp only at h
  split at h
  · cases h; rfl
  · unfold State.writeBy at h
    split at h
    · exact State.writeHandler_frame h
    · exact State.writeHandler_frame h
    · split at h
      · cases h
      · next h1 => exact (State.writeHandler_frame h).trans (State.writeHandler_frame h1)

/-! ## Arbiter and engine -/

theorem State.replay_frame {s t : State} {q : List DeferredWrite} (h : s.replay q = .ok t) : t.offVdp = s.offVdp := by
  induction q generalizing s with
  | nil => cases h; rfl
  | cons e q ih =>
    simp only [State.replay] at h
    split at h
    · cases h
    · next h1 => exact (ih h).trans (State.vdpWrite_frame h1)

/-- A drain touches the log, the logic-error flag, the queue, the engine and the collaborator questions (R253). -/
theorem State.drain_frame {s t : State} (h : s.drain = .ok t) : t.offReady = s.offReady := by
  unfold State.drain at h
  split at h
  · cases h
  · next s1 h1 =>
    cases h
    have h2 : s1.offReady = s.offReady := (State.offReady_of_offVdp (State.replay_frame h1)).trans rfl
    unfold State.redeferred
    split
    · exact h2
    · exact h2

theorem State.readyEdge_frame {s t : State} (h : s.readyEdge = .ok t) : t.offReady = s.offReady := by
  unfold State.readyEdge at h
  split at h
  · exact State.drain_frame h
  · cases h; rfl

theorem State.dmaComplete_frame {s t : State} (h : s.dmaComplete = .ok t) : t.offReady = s.offReady := by
  unfold State.dmaComplete at h
  split at h
  · exact (State.readyEdge_frame h).trans rfl
  · cases h; rfl

/-- The word's slot of a memory-to-VRAM unit (R224). -/
theorem State.m68kUnit_frame (s : State) : s.m68kUnit.offSlot = s.offSlot :=
  (show s.m68kUnit.offSlot = s.sourceRead.1.offSlot from rfl).trans
    (State.offSlot_of_offRead (State.memRead_frame s .word (s.dma.sourceAddress.setWidth 32)))

/-- A slot touches what a drain can touch, and through its source read the main CPU's penalty (R224). -/
theorem State.dmaSlot_frame {s t : State} (h : s.dmaSlot = .ok t) : t.offSlot = s.offSlot := by
  unfold State.dmaSlot at h
  split at h
  · cases h; rfl
  · exact (State.offSlot_of_offReady (State.dmaComplete_frame h)).trans rfl
  · unfold State.slotCopy at h
    split at h
    · exact (State.offSlot_of_offReady (State.dmaComplete_frame h)).trans rfl
    · cases h; rfl
  · unfold State.slotM68k at h
    split at h
    · cases h; rfl
    · exact (State.offSlot_of_offReady (State.dmaComplete_frame h)).trans (State.m68kUnit_frame s)

/-- FIFO.DRAIN (R227). -/
theorem State.fifoDrain_frame {s t : State} (h : s.fifoDrain = .ok t) : t.offReady = s.offReady := by
  unfold State.fifoDrain at h
  split at h
  · cases h; rfl
  · exact (State.readyEdge_frame h).trans rfl

end Sys2Proof.Machine
end

