-- ==== Sys2Proof/Laws/Stores.lean ====
section
/-! SUPPORT. Every operation that stores a byte keeps the canonical form of the four stores and stays inside them (R17, R104, R108,
R171, R198), one lemma for each shared operation. -/

namespace Sys2Proof.Machine

/-! ## Indices -/

/-- A masked address is not above its mask. -/
theorem toNat_and_le (a m : Addr) : (a &&& m).toNat ≤ m.toNat := by
  rw [BitVec.toNat_and]; exact Nat.and_le_right

theorem ramIndex_lt (a : Addr) : ramIndex a < 0x10000 := Nat.lt_succ_of_le (toNat_and_le a 0xFFFF#24)

theorem ramIndexNext_lt (a : Addr) : ramIndexNext a < 0x10000 := Nat.lt_succ_of_le (toNat_and_le _ 0xFFFF#24)

theorem comemIndex_lt (cfg : BusConfig) (a : Addr) : comemIndex cfg a < cfg.comemMask.toNat + 1 :=
  Nat.lt_succ_of_le (toNat_and_le a cfg.comemMask)

/-- Inside the overlay the SRAM index is one of the store (R168, R171). -/
theorem sramIndex_lt {cfg : BusConfig} {o : Overlay} {a : Addr} (ho : cfg.overlay = some o)
    (h : cfg.inOverlay a = true) : sramIndex o a < BusConfig.sramSize o := by
  simp only [BusConfig.inOverlay, ho, Bool.and_eq_true, decide_eq_true_eq, BitVec.le_def] at h
  unfold sramIndex BusConfig.sramSize
  omega

theorem sramIndexNext_lt (o : Overlay) (a : Addr) : sramIndexNext o a < BusConfig.sramSize o :=
  Nat.mod_lt _ (by unfold BusConfig.sramSize; omega)

theorem State.eepIndex_lt {s : State} (h : s.cfg.ok = true) : s.eepIndex < s.cfg.eepromSize :=
  Nat.mod_lt _ (BusConfig.eepromSize_pos h)

/-! ## What the stores are read from -/

/-- The stores and the parameters that bound them. -/
def State.stores (s : State) : Memory × Memory × Memory × Memory × BusConfig := (s.ram, s.comem, s.sram, s.eep, s.cfg)

/-- Two states hold the same stores under the same parameters. -/
def State.sameStores (t s : State) : Prop := t.stores = s.stores

theorem State.StoresOk.of_same {s t : State} (h : s.StoresOk) (e : t.sameStores s) : t.StoresOk := by
  obtain ⟨h1, h2, h3, h4, h5⟩ : t.ram = s.ram ∧ t.comem = s.comem ∧ t.sram = s.sram ∧ t.eep = s.eep ∧ t.cfg = s.cfg := by
    simpa only [State.sameStores, State.stores, Prod.mk.injEq] using e
  constructor
  · rw [h1]; exact h.ramWf
  · rw [h1]; exact h.ramBelow
  · rw [h2]; exact h.comemWf
  · rw [h2, h5]; exact h.comemBelow
  · rw [h3]; exact h.sramWf
  · rw [h3, h5]; exact h.sramBelow
  · rw [h4]; exact h.eepWf
  · rw [h4, h5]; exact h.eepBelow

theorem State.sameStores_of_offReg {s t : State} (h : t.offReg = s.offReg) : t.sameStores s :=
  (congrArg State.stores h : t.offReg.stores = s.offReg.stores)

theorem State.sameStores_of_offVdp {s t : State} (h : t.offVdp = s.offVdp) : t.sameStores s :=
  (congrArg State.stores h : t.offVdp.stores = s.offVdp.stores)

theorem State.sameStores_of_offSlot {s t : State} (h : t.offSlot = s.offSlot) : t.sameStores s :=
  (congrArg State.stores h : t.offSlot.stores = s.offSlot.stores)

theorem State.sameStores_of_offRead {s t : State} (h : t.offRead = s.offRead) : t.sameStores s :=
  (congrArg State.stores h : t.offRead.stores = s.offRead.stores)

/-! ## One store each -/

theorem State.StoresOk.ram {s : State} (h : s.StoresOk) {k : Nat} (b : Byte) (hk : k < 0x10000) :
    State.StoresOk { s with ram := s.ram.write k b } :=
  { h with ramWf := Memory.write_wf k b h.ramWf, ramBelow := Memory.write_below b hk h.ramBelow }

theorem State.StoresOk.comem {s : State} (h : s.StoresOk) {k : Nat} (b : Byte) (hk : k < s.cfg.comemMask.toNat + 1) :
    State.StoresOk { s with comem := s.comem.write k b } :=
  { h with comemWf := Memory.write_wf k b h.comemWf, comemBelow := Memory.write_below b hk h.comemBelow }

theorem State.StoresOk.sram {s : State} (h : s.StoresOk) {o : Overlay} {k : Nat} (b : Byte)
    (ho : s.cfg.overlay = some o) (hk : k < BusConfig.sramSize o) :
    State.StoresOk { s with sram := s.sram.write k b } :=
  { h with
    sramWf := Memory.write_wf k b h.sramWf
    sramBelow := fun o' ho' => by
      cases ho.symm.trans ho'
      exact Memory.write_below b hk (h.sramBelow o ho) }

theorem State.StoresOk.eep {s : State} (h : s.StoresOk) {k : Nat} (b : Byte) (hk : k < s.cfg.eepromSize) :
    State.StoresOk { s with eep := s.eep.write k b } :=
  { h with eepWf := Memory.write_wf k b h.eepWf, eepBelow := Memory.write_below b hk h.eepBelow }

/-! ## The operations that store -/

/-- RAM writes (R105). -/
theorem State.StoresOk.ramWrite {s : State} (h : s.StoresOk) (a : Addr) (v : Datum) : (s.ramWrite a v).StoresOk := by
  cases v
  · exact h.ram _ (ramIndex_lt a)
  · exact (h.ram _ (ramIndex_lt a)).ram _ (ramIndexNext_lt a)

/-- Co-CPU window writes (R109). -/
theorem State.StoresOk.coWrite {s : State} (h : s.StoresOk) (a : Addr) (v : Datum) : (s.coWrite a v).StoresOk := by
  unfold State.coWrite
  dsimp only
  split
  · exact State.StoresOk.comem (s := s.addPenalty .main s.cfg.coPenalty) (h.of_same rfl) _
      (comemIndex_lt _ a)
  · exact h.of_same rfl

/-- The co-CPU's own operations (R17, R260). -/
theorem State.StoresOk.coOp {s : State} (h : s.StoresOk) (op : CoOp) : (s.coOp op).StoresOk := by
  cases op
  · exact h.of_same rfl
  · exact h.comem _ (comemIndex_lt _ _)

/-- SRAM writes inside the overlay (R171). -/
theorem State.StoresOk.sramWrite {s : State} (h : s.StoresOk) {o : Overlay} {a : Addr} (v : Datum)
    (ho : s.cfg.overlay = some o) (ha : s.cfg.inOverlay a = true) : (s.sramWrite o a v).StoresOk := by
  cases v
  · exact h.sram _ ho (sramIndex_lt ho ha)
  · exact State.StoresOk.sram (h.sram _ ho (sramIndex_lt ho ha)) _ ho (sramIndexNext_lt o a)

/-- EEPROM samples (R191, R198). -/
theorem State.StoresOk.eepStep {s : State} (h : s.StoresOk) (hc : s.cfg.ok = true) (c d : Bool) :
    (s.eepStep c d).StoresOk := by
  have h0 : (s.sampleLines c d).StoresOk := h.of_same rfl
  have hk : (s.sampleLines c d).cfg.ok = true := hc
  unfold State.eepStep
  generalize s.sampleLines c d = u at h0 hk
  cases lineEventOf s.eeprom.clockLine s.eeprom.dataLine c d <;> simp only [State.lineEvent]
  · exact h0.of_same rfl
  · exact h0.of_same rfl
  · split
    · exact h0
    · rw [State.gwaRise_frame]; exact h0.of_same rfl
    · rw [State.writeRise_frame]; exact h0.of_same rfl
    · rw [State.readRise_frame]; exact h0.of_same rfl
    · exact h0
  · split
    · exact h0
    · rw [State.gwaFall_frame]; exact h0.of_same rfl
    · unfold State.writeFall
      dsimp only
      split
      · exact (h0.eep _ (State.eepIndex_lt hk)).of_same rfl
      · exact h0
    · rw [State.readFall_frame]; exact h0.of_same rfl
    · exact h0
  · exact h0

/-- Cartridge writes (R103, R163, R166, R169). -/
theorem State.StoresOk.mapWrite {s : State} (h : s.StoresOk) (hc : s.cfg.ok = true) (a : Addr) (v : Datum) :
    (s.mapWrite a v).StoresOk := by
  unfold State.mapWrite
  split
  · exact h.of_same rfl
  · exact h.of_same rfl
  · unfold State.batWrite
    split
    · exact h.of_same rfl
    · next o ho =>
      split
      · next h1 =>
        unfold State.devWrite
        split
        · exact h.sramWrite v ho h1.1
        · exact h.eepStep hc _ _
      · split <;> exact h.of_same rfl

/-- Every bus write (R101). -/
theorem State.StoresOk.writeHandler {s t : State} (h : s.StoresOk) (hc : s.cfg.ok = true) {g : Region} {a : Addr} {v : Datum}
    (e : s.writeHandler g a v = .ok t) : t.StoresOk := by
  cases g <;> simp only [State.writeHandler, Except.ok.injEq] at e
  · subst e; exact h.mapWrite hc a v
  · subst e; exact h.ramWrite a v
  · subst e; exact h.of_same rfl
  · subst e; exact h.coWrite a v
  · subst e
    cases v
    · simp only [State.ioWrite]; rw [State.ioPut_frame]; exact h.of_same rfl
    · simp only [State.ioWrite]; rw [State.ioPut_frame, State.ioPut_frame]; exact h.of_same rfl
  · subst e; exact h.of_same (State.sameStores_of_offReg (State.regWrite_frame s a v))
  · exact h.of_same (State.sameStores_of_offVdp (State.vdpWrite_frame e))
  · subst e; exact h.of_same rfl

theorem State.StoresOk.memWrite {s t : State} (h : s.StoresOk) (hc : s.cfg.ok = true) {addr : BitVec 32} {v : BusDatum}
    (e : s.memWrite addr v = .ok t) : t.StoresOk := by
  unfold State.memWrite at e
  dsimp only at e
  split at e
  · cases e; exact h.of_same rfl
  · unfold State.writeBy at e
    split at e
    · exact h.writeHandler hc e
    · exact h.writeHandler hc e
    · split at e
      · cases e
      · next s1 h1 =>
        have hf : s1.cfg = s.cfg :=
          (congrArg State.cfg (State.writeHandler_frame h1) : s1.offWrite.cfg = s.offWrite.cfg)
        exact (h.writeHandler hc h1).writeHandler (by rw [hf]; exact hc) e

/-- A new session lists no byte (R24, R311). -/
theorem State.StoresOk.create (cfg : BusConfig) : (State.create cfg).StoresOk where
  ramWf := Memory.wf_nil
  ramBelow := Memory.below_nil _
  comemWf := Memory.wf_nil
  comemBelow := Memory.below_nil _
  sramWf := Memory.wf_nil
  sramBelow := fun _ _ => Memory.below_nil _
  eepWf := Memory.wf_nil
  eepBelow := Memory.below_nil _

end Sys2Proof.Machine
end

