-- ==== Sys2Proof/Laws/Bytes.lean ====
section
/-! SUPPORT. What one byte reads as after each storing handler (R105, R109, R171, R198): the bytes stored, and what was there before
everywhere else. -/

namespace Sys2Proof.Machine

/-- RAM after RAM.WR (R105): the low byte of a WORD at the next index, the high byte (or the BYTE) at the index. -/
theorem State.ramByte_ramWrite (s : State) (a : Addr) (v : Datum) (k : Nat) :
    (s.ramWrite a v).ramByte k =
      match v with
      | .byte b => if k = ramIndex a then b else s.ramByte k
      | .word w => if k = ramIndexNext a then lowByte w else if k = ramIndex a then highByte w else s.ramByte k := by
  cases v with
  | byte b => exact State.ramByte_write s _ k b
  | word w =>
    rw [show s.ramWrite a (.word w)
      = { { s with ram := s.ram.write (ramIndex a) (highByte w) } with
          ram := (s.ram.write (ramIndex a) (highByte w)).write (ramIndexNext a) (lowByte w) } from rfl]
    refine (State.ramByte_write { s with ram := s.ram.write (ramIndex a) (highByte w) } _ k _).trans ?_
    rw [State.ramByte_write]

/-- The co-CPU memory after CO.WR (R109): the one byte stored, with access. -/
theorem State.comemByte_coWrite (s : State) (a : Addr) (v : Datum) (k : Nat) :
    (s.coWrite a v).comemByte k = if s.coAccess = true ∧ k = comemIndex s.cfg a then coStored v else s.comemByte k := by
  unfold State.coWrite
  cases h : s.coAccess
  · rw [if_neg (by simp only [State.addPenalty]; exact ne_true_of_eq_false h)]
    simp only [Bool.false_eq_true, false_and, if_false]
    rfl
  · rw [if_pos (by exact h)]
    simp only [true_and]
    exact State.comemByte_write (s.addPenalty .main s.cfg.coPenalty) _ k _

/-- SRAM after a device write (R171). -/
theorem State.sramByte_sramWrite (s : State) (o : Overlay) (a : Addr) (v : Datum) (k : Nat) :
    (s.sramWrite o a v).sramByte k =
      match v with
      | .byte b => if k = sramIndex o a then b else s.sramByte k
      | .word w => if k = sramIndexNext o a then lowByte w else if k = sramIndex o a then highByte w else s.sramByte k := by
  cases v with
  | byte b => exact State.sramByte_write s _ k b
  | word w =>
    refine (State.sramByte_write { s with sram := s.sram.write (sramIndex o a) (highByte w) } _ k _).trans ?_
    rw [State.sramByte_write]

/-- The EEPROM store after one sample (R198): the write buffer, at the edge that ends the acknowledge cycle of WRITE. -/
theorem State.eepByte_eepStep (s : State) (c d : Bool) (k : Nat) :
    (s.eepStep c d).eepByte k =
      if s.eeprom.clockLine = true ∧ c = false ∧ s.eeprom.state = .write ∧ s.eeprom.bitCounter = 9 ∧ k = s.eepIndex
      then s.eeprom.writeBuffer else s.eepByte k := by
  cases hp : s.eeprom.clockLine <;> cases c <;>
    simp only [State.eepStep, hp, Bool.false_eq_true, Bool.true_eq_false, false_and, true_and, and_false, if_false]
  · cases s.eeprom.dataLine <;> cases d <;> rfl
  · simp only [lineEventOf, State.lineEvent]
    cases hs : (s.sampleLines true d).eeprom.state <;> dsimp only
    · rfl
    · rw [State.gwaRise_frame]; rfl
    · rw [State.writeRise_frame]; rfl
    · rw [State.readRise_frame]; rfl
    · rfl
  · have hs : (s.sampleLines false d).eeprom.state = s.eeprom.state := rfl
    simp only [lineEventOf, State.lineEvent, hs]
    cases h : s.eeprom.state <;> simp only [reduceCtorEq, false_and, if_false, true_and]
    · rfl
    · rw [State.gwaFall_frame]; rfl
    · unfold State.writeFall
      dsimp only
      by_cases hb : s.eeprom.bitCounter = 9
      · rw [if_pos (by exact hb)]
        simp only [hb, true_and]
        exact State.eepByte_write (s.sampleLines false d) _ k _
      · rw [if_neg (by exact hb)]
        simp only [hb, false_and, if_false]
        rfl
    · rw [State.readFall_frame]; rfl
    · rfl
  · cases s.eeprom.dataLine <;> cases d <;> rfl

end Sys2Proof.Machine
end

