-- ==== Sys2Proof/Laws/Decode.lean ====
section
/-! SUPPORT. Laws of the records: each field reader undoes its writer, a record is read by the row its first byte names, and what is
decoded is well-formed. -/

namespace Sys2Proof

/-! ## Bytes joined again -/

theorem join16 (w : Word) : (w.extractLsb' 8 8 ++ w.extractLsb' 0 8 : Word) = w := by
  rw [BitVec.extractLsb'_append_extractLsb'_eq_extractLsb' (by rfl)]
  simp

theorem join24 (a : Addr) :
    ((a.extractLsb' 16 8 ++ a.extractLsb' 8 8 : Word) ++ a.extractLsb' 0 8 : Addr) = a := by
  rw [BitVec.extractLsb'_append_extractLsb'_eq_extractLsb' (by rfl),
    BitVec.extractLsb'_append_extractLsb'_eq_extractLsb' (by rfl)]
  simp

theorem join32 (v : Long) :
    ((v.extractLsb' 24 8 ++ v.extractLsb' 16 8 : Word) ++ (v.extractLsb' 8 8 ++ v.extractLsb' 0 8 : Word) : Long) = v := by
  rw [BitVec.extractLsb'_append_extractLsb'_eq_extractLsb' (by rfl),
    BitVec.extractLsb'_append_extractLsb'_eq_extractLsb' (by rfl),
    BitVec.extractLsb'_append_extractLsb'_eq_extractLsb' (by rfl)]
  simp

/-! ## Fields -/

/-- A reader undoes a writer, whatever follows. -/
def Undoes {α : Type} (g : Get α) (p : α → List Byte) : Prop := ∀ x bs, g (p x ++ bs) = some (x, bs)

theorem getByte_put : Undoes getByte putByte := fun _ _ => rfl

theorem getWord_put : Undoes getWord putWord := fun w bs => congrArg (fun x => some (x, bs)) (join16 w)

theorem getAddr_put : Undoes getAddr putAddr := fun a bs => congrArg (fun x => some (x, bs)) (join24 a)

theorem getLong_put : Undoes getLong putLong := fun v bs => congrArg (fun x => some (x, bs)) (join32 v)

theorem getAddr32_put : Undoes getAddr32 putAddr32 := getLong_put

theorem getBit_put : Undoes getBit putBit := by intro x bs; cases x <;> rfl

theorem getWidth_put : Undoes getWidth putWidth := by intro x bs; cases x <;> rfl

theorem getSize_put : Undoes getSize putSize := by intro x bs; cases x <;> rfl

theorem getDatum_put : Undoes getDatum putDatum := by
  intro x bs
  cases x with
  | byte b => rfl
  | word w => exact congrArg (fun x => some (Datum.word x, bs)) (join16 w)

theorem getBusDatum_put : Undoes getBusDatum putBusDatum := by
  intro x bs
  cases x with
  | byte b => rfl
  | word w => exact congrArg (fun x => some (BusDatum.word x, bs)) (join16 w)
  | long v => exact congrArg (fun x => some (BusDatum.long x, bs)) (join32 v)

theorem getCpu_put : Undoes getCpu putCpu := by intro x bs; cases x <;> rfl

theorem getIrq_put : Undoes getIrq putIrq := by intro x bs; cases x <;> rfl

theorem getTarget_put : Undoes getTarget putTarget := by intro x bs; cases x <;> rfl

theorem getKind_put : Undoes getKind putKind := by intro x bs; cases x <;> rfl

theorem getHRes_put : Undoes getHRes putHRes := by intro x bs; cases x <;> rfl

theorem getPeriod_put : Undoes getPeriod putPeriod := by intro x bs; cases x <;> rfl

theorem getAccess_put : Undoes getAccess putAccess := by
  intro x bs
  cases x with
  | read n => cases n <;> rfl
  | write d =>
    have := getDatum_put d bs
    simp only [putAccess, List.cons_append, getAccess, this, Option.map]

theorem getDeferred_put : Undoes getDeferred putDeferred := by
  intro e bs
  simp only [getDeferred, putDeferred, List.append_assoc, getAddr_put e.addr, getDatum_put e.data, bind, Option.bind]

/-- The digits of a number give the number back. -/
theorem natOfBytes_bytesOfNat (fuel n : Nat) (h : n ≤ fuel) : natOfBytes (bytesOfNat fuel n) = n := by
  induction fuel generalizing n with
  | zero => have : n = 0 := by omega
            subst this; rfl
  | succ fuel ih =>
    unfold bytesOfNat
    split
    · simp [natOfBytes, *]
    · have h2 : n / 256 ≤ fuel := by omega
      simp only [natOfBytes, ih _ h2, BitVec.toNat_ofNat]
      omega

/-- The natural-number field is the last one: it takes all the bytes. -/
theorem getNat_put (n : Nat) : getNat (putNat n) = some (n, []) := by
  simp [getNat, putNat, natOfBytes_bytesOfNat]

theorem getStart_put (o : DmaOperands) : getStart (putStart o) = some (o, []) := by
  simp only [getStart, putStart, getKind_put o.mode, getAddr_put o.source, getWord_put o.destination,
    getTarget_put o.target, getByte_put o.autoInc, getByte_put o.fillValue, getNat_put, bind, Option.bind]

/-! ## Rows -/

/-- A row reads one operand that fills the record. -/
theorem fields1_put {α : Type} {gx : Get α} {k : α → Instr} {x : α} {bs : List Byte} (h : gx bs = some (x, [])) :
    fields1 gx k bs = .ok (k x) := by
  simp [fields1, h, fields0]

/-- A row reads two operands that fill the record. -/
theorem fields2_put {α β : Type} {gx : Get α} {gy : Get β} {px : α → List Byte} {k : α → β → Instr} {x : α} {y : β}
    {bs : List Byte} (hx : Undoes gx px) (hy : gy bs = some (y, [])) : fields2 gx gy k (px x ++ bs) = .ok (k x y) := by
  simp [fields2, hx x bs, fields1_put hy]

/-- A row reads three operands that fill the record. -/
theorem fields3_put {α β γ : Type} {gx : Get α} {gy : Get β} {gz : Get γ} {px : α → List Byte} {py : β → List Byte}
    {k : α → β → γ → Instr} {x : α} {y : β} {z : γ} {bs : List Byte} (hx : Undoes gx px) (hy : Undoes gy py)
    (hz : gz bs = some (z, [])) : fields3 gx gy gz k (px x ++ py y ++ bs) = .ok (k x y z) := by
  simp only [fields3, List.append_assoc, hx x, fields2_put hy hz]

/-- One operand, nothing after it. -/
theorem Undoes.last {α : Type} {g : Get α} {p : α → List Byte} (h : Undoes g p) (x : α) : g (p x) = some (x, []) := by
  simpa using h x []

/-- A record whose first byte is a row's number is read by that row. -/
theorem decodeFields_row {row : Byte} {fields : List Byte → Except Reject Instr} (bs : List Byte)
    (h : opcodeRows[row.toNat]? = some fields) : decodeFields (row :: bs) = fields bs := by
  have hlt : row.toNat < 100 := by
    have := (List.getElem?_eq_some_iff.mp h).1
    simpa [opcodeRows, rowsBus, rowsReg, rowsVal, rowsLine, rowsArb, rowsMap, rowsDma, rowsSch] using this
  unfold decodeFields
  split <;> simp_all

/-- What is decoded is well-formed. -/
theorem decode_wf {bs : List Byte} {i : Instr} (h : decode bs = .ok i) : i.wf = true := by
  unfold decode at h
  split at h
  · cases h
  · split at h
    · cases h; assumption
    · cases h

/-- A row that reads its record decodes it to a well-formed operation. -/
theorem decode_row {row : Byte} {fields : List Byte → Except Reject Instr} {bs : List Byte} {i : Instr}
    (h : opcodeRows[row.toNat]? = some fields) (hf : fields bs = .ok i) (hw : i.wf = true) :
    decode (row :: bs) = .ok i := by
  simp [decode, decodeFields_row bs h, hf, hw]

end Sys2Proof
end

