-- ==== Sys2Proof/Laws/Drain.lean ====
section
/-! SUPPORT. What one replayed write and the end of a drain do (R115, R253, R254). -/

namespace Sys2Proof.Machine

/-- The end of a drain in one equation: what waits again is flagged and logged once (R254). -/
theorem State.redeferred_eq (t : State) : t.redeferred = { t with
    logicError := t.logicError || !t.deferredQueue.isEmpty
    log := t.log ++ redeferEvents t.deferredQueue } := by
  unfold State.redeferred redeferEvents
  by_cases h : t.deferredQueue = []
  · cases t
    simp_all
  · simp [h, State.addLog]

/-- The offsets of a queued write that has a port. -/
theorem reachesPort_iff (e : DeferredWrite) :
    reachesPort e = true ↔ vdpOffsetOf e.addr = .data ∨ vdpOffsetOf e.addr = .control := by
  unfold reachesPort
  cases vdpOffsetOf e.addr <;> simp

/-- A write to no writable port is logged and dropped, ready or not (R115). -/
theorem State.vdpWrite_no_port (s : State) (e : DeferredWrite) (h : reachesPort e = false) :
    s.vdpWrite e.addr e.data = .ok { s with log := s.log ++ [⟨.vdpUnexpectedPort, .addr e.addr⟩] } := by
  unfold reachesPort at h
  unfold State.vdpWrite
  cases hv : vdpOffsetOf e.addr <;> simp_all [State.addLog]

/-- A port write waits while the VDP is not ready (R118). -/
theorem State.vdpWrite_not_ready (s : State) (e : DeferredWrite) (h : reachesPort e = true) (hr : s.vdpReady = false) :
    s.vdpWrite e.addr e.data = .ok (s.defer e) := by
  obtain h | h := (reachesPort_iff e).1 h <;> simp [State.vdpWrite, h, hr]

/-- Replaying while the VDP is not ready, or with no port write: the port writes wait in order, the others are logged and
dropped. -/
theorem State.replay_waits (w : List DeferredWrite) : ∀ s : State, s.vdpReady = false ∨ portWrites w = [] →
    s.replay w = .ok { s with log := s.log ++ dropEvents w, deferredQueue := s.deferredQueue ++ portWrites w } := by
  induction w with
  | nil => intro s _; simp [State.replay, portWrites, dropEvents]
  | cons e w ih =>
    intro s hr
    cases he : reachesPort e with
    | false =>
      have hp : portWrites (e :: w) = portWrites w := by simp [portWrites, he]
      simp only [State.replay, State.vdpWrite_no_port s e he]
      rw [ih _ (by rw [hp] at hr; exact hr)]
      simp [hp, dropEvents, he]
    | true =>
      have hp : portWrites (e :: w) = e :: portWrites w := by simp [portWrites, he]
      have hr : s.vdpReady = false := hr.resolve_right (by simp [hp])
      simp only [State.replay, State.vdpWrite_not_ready s e he hr]
      rw [ih (s.defer e) (.inl hr)]
      simp [State.defer, hp, dropEvents, he]

end Sys2Proof.Machine
end

