-- ==== Sys2Proof/Laws/Invariant.lean ====
section
/-! SUPPORT. The invariant of Safety.lean through each shared operation (R174, R205, R232, R275), the co-CPU's and the bus's
operations up to the drain of the deferred queue and the slots of the engine. -/

namespace Sys2Proof.Machine

/-! ## What the invariant reads -/

/-- The fields the invariant speaks of. -/
def State.invView (s : State) : State :=
  { s with
    coCpuBusRequested := false
    coCpuResetAsserted := false
    penalty := ⟨0, 0⟩
    deferredQueue := []
    vdpVLine := false
    vdpHLine := false
    pendingMain := ⟨false, false⟩
    pendingCo := ⟨false, false⟩
    mainCpuFrozen := false
    fatal := none
    logicError := false
    log := []
    mapper := ⟨s.mapper.variant, 0, .disabled⟩
    memoryMode := 0#16
    tmssLatch := 0#16
    inbox := []
    inputs := Inputs.empty
    draws := 0
    epoch := 0
    closed := false
    calls := []
    replies := [] }

theorem State.Inv.of_view {s t : State} (h : s.Inv) (e : t.invView = s.invView) : t.Inv := by
  have h1 : s.invView.Inv := ⟨h.cfg, h.stores.of_same rfl, ⟨h.dma.busy, h.dma.length, h.dma.fifo, h.dma.phase⟩,
    ⟨h.eeprom.cycle, h.eeprom.idle⟩, ⟨h.sched.main, h.sched.co, h.sched.vdp, h.sched.audio⟩, h.variant⟩
  rw [← e] at h1
  exact ⟨h1.cfg, h1.stores.of_same rfl, ⟨h1.dma.busy, h1.dma.length, h1.dma.fifo, h1.dma.phase⟩,
    ⟨h1.eeprom.cycle, h1.eeprom.idle⟩, ⟨h1.sched.main, h1.sched.co, h1.sched.vdp, h1.sched.audio⟩, h1.variant⟩

theorem State.invView_of_offRead {s t : State} (h : t.offRead = s.offRead) : t.invView = s.invView :=
  (congrArg State.invView h : t.offRead.invView = s.offRead.invView)

/-- One field of the invariant at a time: a new engine. -/
theorem State.Inv.withDma {s : State} (h : s.Inv) {d : DmaState} (e : State.DmaOk { s with dma := d }) :
    State.Inv { s with dma := d } :=
  ⟨h.cfg, h.stores.of_same rfl, e, ⟨h.eeprom.cycle, h.eeprom.idle⟩,
    ⟨h.sched.main, h.sched.co, h.sched.vdp, h.sched.audio⟩, h.variant⟩

/-- A new scheduler. -/
theorem State.Inv.withSched {s : State} (h : s.Inv) {d : SchedState} (e : State.SchedOk { s with sched := d }) :
    State.Inv { s with sched := d } :=
  ⟨h.cfg, h.stores.of_same rfl, ⟨h.dma.busy, h.dma.length, h.dma.fifo, h.dma.phase⟩, ⟨h.eeprom.cycle, h.eeprom.idle⟩, e,
    h.variant⟩

/-! ## The EEPROM (R205) -/

theorem State.EepromOk.gwaRise {s : State} (h : s.EepromOk) (hs : s.eeprom.state = .getWordAddress) :
    s.gwaRise.EepromOk := by
  have hc := h.cycle
  unfold State.gwaRise
  dsimp only
  split_ifs
  all_goals first
    | exact h
    | exact ⟨by simp only; omega, by simp [hs]⟩

theorem State.EepromOk.writeRise {s : State} (h : s.EepromOk) (hs : s.eeprom.state = .write) : s.writeRise.EepromOk := by
  have hc := h.cycle
  unfold State.writeRise
  dsimp only
  split_ifs
  all_goals first
    | exact h
    | exact ⟨by simp only; omega, by simp [hs]⟩

theorem State.EepromOk.readRise {s : State} (h : s.EepromOk) (hs : s.eeprom.state = .read) : s.readRise.EepromOk := by
  have hc := h.cycle
  unfold State.readRise
  dsimp only
  split_ifs
  · exact ⟨by simp only; omega, by simp [hs]⟩
  · exact h

/-- Every sample keeps the cycle number in 0..9, and 0 while the device is idle. -/
theorem State.EepromOk.eepStep {s : State} (h : s.EepromOk) (c d : Bool) : (s.eepStep c d).EepromOk := by
  have h0 : (s.sampleLines c d).EepromOk := ⟨h.cycle, h.idle⟩
  unfold State.eepStep
  generalize s.sampleLines c d = u at h0
  cases lineEventOf s.eeprom.clockLine s.eeprom.dataLine c d <;> simp only [State.lineEvent]
  · exact ⟨Nat.zero_le _, fun _ => rfl⟩
  · exact ⟨Nat.zero_le _, fun _ => rfl⟩
  · split
    · exact h0
    · exact h0.gwaRise ‹_›
    · exact h0.writeRise ‹_›
    · exact h0.readRise ‹_›
    · exact h0
  · split
    · exact h0
    · unfold State.gwaFall
      dsimp only
      split
      · exact ⟨Nat.zero_le _, fun _ => rfl⟩
      · exact h0
    · unfold State.writeFall
      dsimp only
      split
      · exact ⟨Nat.zero_le _, fun _ => rfl⟩
      · exact h0
    · unfold State.readFall
      dsimp only
      split
      · split <;> exact ⟨Nat.zero_le _, fun _ => rfl⟩
      · exact h0
    · exact h0
  · exact h0

theorem State.Inv.eepStep {s : State} (h : s.Inv) (c d : Bool) : (s.eepStep c d).Inv := by
  have hs := h.stores.eepStep h.cfg c d
  have he := h.eeprom.eepStep c d
  have hf := State.of_offEeprom (State.eepStep_frame s c d)
  generalize s.eepStep c d = t at hs he hf
  obtain ⟨h1, -, h3, -, h5, h6⟩ := h
  rw [hf] at hs he ⊢
  exact ⟨h1, hs, ⟨h3.busy, h3.length, h3.fifo, h3.phase⟩, he, ⟨h5.main, h5.co, h5.vdp, h5.audio⟩, h6⟩

/-! ## The mapper (R174) -/

/-- A cartridge write keeps the invariant. -/
theorem State.Inv.mapWrite {s : State} (h : s.Inv) (a : Addr) (v : Datum) : (s.mapWrite a v).Inv := by
  have hs := h.stores.mapWrite h.cfg a v
  have he : (s.mapWrite a v).EepromOk := by
    unfold State.mapWrite State.batWrite
    split
    · exact ⟨h.eeprom.cycle, h.eeprom.idle⟩
    · exact ⟨h.eeprom.cycle, h.eeprom.idle⟩
    · split
      · exact ⟨h.eeprom.cycle, h.eeprom.idle⟩
      · split
        · unfold State.devWrite
          split
          · cases v <;> exact ⟨h.eeprom.cycle, h.eeprom.idle⟩
          · exact h.eeprom.eepStep _ _
        · split <;> exact ⟨h.eeprom.cycle, h.eeprom.idle⟩
  have hf := State.of_offCart (State.mapWrite_frame s a v)
  generalize s.mapWrite a v = t at hs he hf
  obtain ⟨h1, -, h3, -, h5, h6⟩ := h
  rw [hf] at hs he ⊢
  exact ⟨h1, hs, ⟨h3.busy, h3.length, h3.fifo, h3.phase⟩, he, ⟨h5.main, h5.co, h5.vdp, h5.audio⟩, h6⟩

/-- The upgrade of a cartridge without overlay (R164): the variant stays tied to the overlay. -/
theorem State.Inv.linBanksel {s : State} (h : s.Inv) (hv : s.mapper.variant ≠ .battery) (val : Word) :
    (s.linBanksel val).Inv := by
  obtain ⟨h1, h2, h3, h4, h5, h6⟩ := h
  refine ⟨h1, h2.of_same rfl, ⟨h3.busy, h3.length, h3.fifo, h3.phase⟩, ⟨h4.cycle, h4.idle⟩,
    ⟨h5.main, h5.co, h5.vdp, h5.audio⟩, ?_⟩
  exact Iff.intro (fun e => by cases e) (fun e => absurd (h6.mpr e) hv)

theorem State.Inv.mapBanksel {s : State} (h : s.Inv) (a : Addr) (val : Word) : (s.mapBanksel a val).Inv := by
  unfold State.mapBanksel
  split
  · next hv => exact h.linBanksel (by simp [hv]) val
  · exact h.of_view rfl
  · unfold State.batBanksel
    split <;> exact h.of_view rfl

/-! ## Control registers -/

theorem State.Inv.regWrite {s : State} (h : s.Inv) (a : Addr) (v : Datum) : (s.regWrite a v).Inv := by
  unfold State.regWrite
  split
  · exact h.of_view rfl
  · unfold State.busreqWrite; split_ifs <;> exact h.of_view rfl
  · unfold State.coresetWrite State.coresetAssert; split_ifs <;> exact h.of_view rfl
  · exact h.mapBanksel a _
  · exact h.of_view rfl
  · exact h.of_view rfl

/-! ## The engine (R232) -/

theorem State.Inv.loadDma {s : State} (h : s.Inv) {o : DmaOperands} (ho : 1 ≤ o.length) : (s.loadDma o).Inv := by
  refine State.Inv.withDma h ⟨?_, ?_, h.dma.fifo, fun _ => rfl⟩
  · cases hm : o.mode <;> rfl
  · cases hm : o.mode <;> simp [modeOf] <;> omega

theorem State.Inv.startDma {s t : State} (h : s.Inv) {o : DmaOperands} (e : s.startDma o = .ok t) : t.Inv := by
  obtain ⟨⟨ho, -⟩, rfl⟩ := State.startDma_ok.mp e
  exact h.loadDma ho

theorem State.Inv.pushFifo {s : State} (h : s.Inv) (x : FifoEntry) (hl : s.dma.fifoQueue.length < s.cfg.fifoCapacity) :
    (s.pushFifo x).Inv :=
  h.withDma ⟨h.dma.busy, h.dma.length, by simpa using hl, h.dma.phase⟩

/-- A ready VDP has room for one more word. -/
theorem State.Inv.room {s : State} (h : s.Inv) (hr : s.vdpReady = true) :
    s.dma.fifoQueue.length < s.cfg.fifoCapacity := by
  have h1 := h.dma.fifo
  simp only [State.vdpReady, State.fifoFull, Bool.and_eq_true, Bool.not_eq_true', beq_eq_false_iff_ne] at hr
  omega

theorem State.Inv.portWrite {s t : State} (h : s.Inv) (hr : s.vdpReady = true) {p : Port} {w : Word}
    (e : s.portWrite p w = .ok t) : t.Inv := by
  have h1 : (s.askPort p w).Inv := h.of_view rfl
  unfold State.portWrite at e
  dsimp only at e
  have h2 : ∀ x : FifoEntry, ((s.askPort p w).pushFifo x).Inv := fun x => h1.pushFifo x (h.room hr)
  split at e
  · cases e; cases p
    · exact h2 _
    · exact h1
  · cases p
    · exact (h2 _).startDma e
    · exact h1.startDma e

theorem State.Inv.vdpWrite {s t : State} (h : s.Inv) {x : Addr} {v : Datum} (e : s.vdpWrite x v = .ok t) : t.Inv := by
  unfold State.vdpWrite State.vdpForward at e
  split at e
  · cases e; exact h.of_view rfl
  · cases e; exact h.of_view rfl
  all_goals
    split at e
    · exact h.portWrite ‹_› e
    · cases e; exact h.of_view rfl

theorem State.Inv.replay {s t : State} {q : List DeferredWrite} (h : s.Inv) (e : s.replay q = .ok t) : t.Inv := by
  induction q generalizing s with
  | nil => cases e; exact h
  | cons x q ih =>
    simp only [State.replay] at e
    split at e
    · cases e
    · next h1 => exact ih (h.vdpWrite h1) e

theorem State.Inv.drain {s t : State} (h : s.Inv) (e : s.drain = .ok t) : t.Inv := by
  unfold State.drain at e
  split at e
  · cases e
  · next s1 h1 =>
    cases e
    have h0 : State.Inv { s with deferredQueue := [] } := h.of_view rfl
    have h2 : s1.Inv := h0.replay h1
    unfold State.redeferred
    split
    · exact h2
    · exact h2.of_view rfl

theorem State.Inv.readyEdge {s t : State} (h : s.Inv) (e : s.readyEdge = .ok t) : t.Inv := by
  unfold State.readyEdge at e
  split at e
  · exact h.drain e
  · cases e; exact h

/-- A completion keeps the invariant, and restores it where the last unit took the length to 0 (R225). -/
theorem State.Inv.dmaComplete {s t : State} (h : s.dma.lengthCounter ≠ 0 → s.Inv)
    (h0 : s.dma.lengthCounter = 0 →
      State.Inv { s with dma := { s.dma with mode := .none, busyFlag := false, slotPhase := false } })
    (e : s.dmaComplete = .ok t) : t.Inv := by
  unfold State.dmaComplete at e
  split at e
  · exact (h0 ‹_›).readyEdge e
  · cases e; exact h ‹_›

/-- A unit that leaves the engine's mode, and no phase, ends a slot with the invariant. -/
theorem State.Inv.unit {s t : State} (h : s.Inv) (u : State) (hm : s.dma.mode ≠ .none) (d : DmaState)
    (hu : u.invView = { s with dma := d }.invView) (hd : d.mode = s.dma.mode) (hb : d.busyFlag = s.dma.busyFlag)
    (hq : d.fifoQueue = s.dma.fifoQueue) (hp : d.slotPhase = false) (e : u.dmaComplete = .ok t) : t.Inv := by
  have hdma : u.dma = d := (congrArg State.dma hu : u.invView.dma = ({ s with dma := d } : State).invView.dma)
  refine State.Inv.dmaComplete (s := u) ?_ ?_ e
  · intro hl
    refine State.Inv.of_view (h.withDma (d := d) ⟨?_, ?_, ?_, fun _ => hp⟩) hu
    · simp only [hd, hb]; exact h.dma.busy
    · rw [hdma] at hl
      constructor
      · intro _; simp only [hd]; exact hm
      · intro _; exact Nat.pos_of_ne_zero hl
    · simp only [hq]; exact h.dma.fifo
  · intro hl
    rw [hdma] at hl
    refine State.Inv.of_view (s := { s with dma := { d with mode := .none, busyFlag := false, slotPhase := false } })
      (h.withDma ⟨rfl, ?_, ?_, fun _ => rfl⟩) ?_
    · simp [hl]
    · simp only [hq]; exact h.dma.fifo
    · have := congrArg (fun x : State =>
        { x with dma := { x.dma with mode := .none, busyFlag := false, slotPhase := false } }) hu
      exact this

/-- A slot keeps the invariant (R222 to R225). -/
theorem State.Inv.dmaSlot {s t : State} (h : s.Inv) (e : s.dmaSlot = .ok t) : t.Inv := by
  unfold State.dmaSlot at e
  split at e
  · cases e; exact h
  · next hm =>
    exact h.unit s.fillUnit (by simp [hm]) s.fillUnit.dma rfl rfl rfl rfl (h.dma.phase (.inr hm)) e
  · next hm =>
    unfold State.slotCopy at e
    split at e
    · exact h.unit s.copyUnit (by simp [hm]) s.copyUnit.dma rfl rfl rfl rfl rfl e
    · cases e
      refine State.Inv.of_view (h.withDma (d := s.copyFetch.dma)
        ⟨h.dma.busy, h.dma.length, h.dma.fifo, fun hx => ?_⟩) rfl
      rcases hx with hx | hx <;> exact absurd (hm.symm.trans hx) (by simp)
  · next hm =>
    unfold State.slotM68k at e
    split at e
    · cases e
      refine h.withDma ⟨h.dma.busy, h.dma.length, h.dma.fifo, fun hx => ?_⟩
      rcases hx with hx | hx <;> exact absurd (hm.symm.trans hx) (by simp)
    · have hr := State.memRead_frame s .word (s.dma.sourceAddress.setWidth 32)
      have hd : s.sourceRead.1.dma = s.dma := (congrArg State.dma hr : s.sourceRead.1.offRead.dma = s.offRead.dma)
      have hv : s.m68kUnit.invView = { s with dma := s.m68kUnit.dma }.invView :=
        congrArg (fun x : State => { x with dma := s.m68kUnit.dma }) (State.invView_of_offRead hr)
      have h1 : s.m68kUnit.dma.mode = s.dma.mode := (congrArg DmaState.mode hd : s.sourceRead.1.dma.mode = s.dma.mode)
      have h2 : s.m68kUnit.dma.busyFlag = s.dma.busyFlag :=
        (congrArg DmaState.busyFlag hd : s.sourceRead.1.dma.busyFlag = s.dma.busyFlag)
      have h3 : s.m68kUnit.dma.fifoQueue = s.dma.fifoQueue :=
        (congrArg DmaState.fifoQueue hd : s.sourceRead.1.dma.fifoQueue = s.dma.fifoQueue)
      exact h.unit s.m68kUnit (by simp [hm]) s.m68kUnit.dma hv h1 h2 h3 rfl e

theorem State.Inv.fifoDrain {s t : State} (h : s.Inv) (e : s.fifoDrain = .ok t) : t.Inv := by
  unfold State.fifoDrain at e
  split at e
  · cases e; exact h
  · next x q hq =>
    have hl : q.length ≤ s.cfg.fifoCapacity := by
      have := h.dma.fifo
      simp only [hq, List.length_cons] at this
      omega
    have h1 : State.Inv { s with dma := { s.dma with fifoQueue := q } } :=
      h.withDma ⟨h.dma.busy, h.dma.length, hl, h.dma.phase⟩
    exact (h1.of_view rfl : State.Inv { s with
      dma := { s.dma with fifoQueue := q }
      calls := s.calls ++ [Call.vdpMemWriteWord x.target x.addr x.data] }).readyEdge e

/-! ## The bus -/

theorem State.Inv.memRead {s : State} (h : s.Inv) (n : Size) (addr : BitVec 32) : (s.memRead n addr).1.Inv :=
  h.of_view (State.invView_of_offRead (State.memRead_frame s n addr))

theorem State.Inv.writeHandler {s t : State} (h : s.Inv) {g : Region} {a : Addr} {v : Datum}
    (e : s.writeHandler g a v = .ok t) : t.Inv := by
  have hs := h.stores.writeHandler h.cfg e
  cases g <;> simp only [State.writeHandler, Except.ok.injEq] at e
  · subst e; exact h.mapWrite a v
  · subst e
    cases v <;> exact ⟨h.cfg, hs, ⟨h.dma.busy, h.dma.length, h.dma.fifo, h.dma.phase⟩, ⟨h.eeprom.cycle, h.eeprom.idle⟩,
      ⟨h.sched.main, h.sched.co, h.sched.vdp, h.sched.audio⟩, h.variant⟩
  · subst e; exact h.of_view rfl
  · subst e
    unfold State.coWrite at hs ⊢
    dsimp only at hs ⊢
    split at hs
    · rw [if_pos ‹_›]
      exact ⟨h.cfg, hs, ⟨h.dma.busy, h.dma.length, h.dma.fifo, h.dma.phase⟩, ⟨h.eeprom.cycle, h.eeprom.idle⟩,
        ⟨h.sched.main, h.sched.co, h.sched.vdp, h.sched.audio⟩, h.variant⟩
    · rw [if_neg ‹_›]; exact h.of_view rfl
  · subst e
    cases v
    · simp only [State.ioWrite]; rw [State.ioPut_frame]; exact h.of_view rfl
    · simp only [State.ioWrite]; rw [State.ioPut_frame, State.ioPut_frame]; exact h.of_view rfl
  · subst e; exact h.regWrite a v
  · exact h.vdpWrite e
  · subst e; exact h.of_view rfl

theorem State.Inv.memWrite {s t : State} (h : s.Inv) {addr : BitVec 32} {v : BusDatum} (e : s.memWrite addr v = .ok t) :
    t.Inv := by
  unfold State.memWrite at e
  dsimp only at e
  split at e
  · cases e; exact h.of_view rfl
  · unfold State.writeBy at e
    split at e
    · exact h.writeHandler e
    · exact h.writeHandler e
    · split at e
      · cases e
      · next h1 => exact (h.writeHandler h1).writeHandler e

end Sys2Proof.Machine
end

