-- ==== Sys2Proof/Laws/PerInstr.lean ====
section
/-! SUPPORT. Per operation: the record of an operation begins with its row's number, and that row of the decoder reads the rest of
the record back as the operation. -/

namespace Sys2Proof.Laws.RecordRow

/-- The row a record names reads it. -/
def Statement (i : Instr) : Prop :=
  ∃ row bs fields, encode i = row :: bs ∧ opcodeRows[row.toNat]? = some fields ∧ fields bs = .ok i

/-- What the host's case split needs of one row. -/
theorem of_row {i : Instr} (row : Byte) (bs : List Byte) (fields : List Byte → Except Reject Instr)
    (he : encode i = row :: bs) (hr : opcodeRows[row.toNat]? = some fields) (hf : fields bs = .ok i) : Statement i :=
  ⟨row, bs, fields, he, hr, hf⟩

theorem memRead x y : Statement (.memRead x y) := of_row 0#8 _ _ rfl rfl (fields2_put getSize_put (getAddr32_put.last y))
theorem memWrite x y : Statement (.memWrite x y) := of_row 1#8 _ _ rfl rfl (fields2_put getAddr32_put (getBusDatum_put.last y))
theorem cartRd x y : Statement (.cartRd x y) := of_row 2#8 _ _ rfl rfl (fields2_put getWidth_put (getAddr_put.last y))
theorem cartWr x y : Statement (.cartWr x y) := of_row 3#8 _ _ rfl rfl (fields2_put getAddr_put (getDatum_put.last y))
theorem ramRd x y : Statement (.ramRd x y) := of_row 4#8 _ _ rfl rfl (fields2_put getWidth_put (getAddr_put.last y))
theorem ramWr x y : Statement (.ramWr x y) := of_row 5#8 _ _ rfl rfl (fields2_put getAddr_put (getDatum_put.last y))
theorem rsvRd x y : Statement (.rsvRd x y) := of_row 6#8 _ _ rfl rfl (fields2_put getWidth_put (getAddr_put.last y))
theorem rsvWr x y : Statement (.rsvWr x y) := of_row 7#8 _ _ rfl rfl (fields2_put getAddr_put (getDatum_put.last y))
theorem coRd x y : Statement (.coRd x y) := of_row 8#8 _ _ rfl rfl (fields2_put getWidth_put (getAddr_put.last y))
theorem coWr x y : Statement (.coWr x y) := of_row 9#8 _ _ rfl rfl (fields2_put getAddr_put (getDatum_put.last y))
theorem ioRd x y : Statement (.ioRd x y) := of_row 10#8 _ _ rfl rfl (fields2_put getWidth_put (getAddr_put.last y))
theorem ioWr x y : Statement (.ioWr x y) := of_row 11#8 _ _ rfl rfl (fields2_put getAddr_put (getDatum_put.last y))
theorem regRd x y : Statement (.regRd x y) := of_row 12#8 _ _ rfl rfl (fields2_put getWidth_put (getAddr_put.last y))
theorem regWr x y : Statement (.regWr x y) := of_row 13#8 _ _ rfl rfl (fields2_put getAddr_put (getDatum_put.last y))
theorem vdpRd x y : Statement (.vdpRd x y) := of_row 14#8 _ _ rfl rfl (fields2_put getWidth_put (getAddr_put.last y))
theorem vdpWr x y : Statement (.vdpWr x y) := of_row 15#8 _ _ rfl rfl (fields2_put getAddr_put (getDatum_put.last y))
theorem unmappedRd x y : Statement (.unmappedRd x y) := of_row 16#8 _ _ rfl rfl (fields2_put getWidth_put (getAddr_put.last y))
theorem unmappedWr x y : Statement (.unmappedWr x y) := of_row 17#8 _ _ rfl rfl (fields2_put getAddr_put (getDatum_put.last y))
theorem vdpRdData x y : Statement (.vdpRdData x y) := of_row 18#8 _ _ rfl rfl (fields2_put getWidth_put (getAddr_put.last y))
theorem vdpRdControl x y : Statement (.vdpRdControl x y) := of_row 19#8 _ _ rfl rfl (fields2_put getWidth_put (getAddr_put.last y))
theorem vdpRdHv x y : Statement (.vdpRdHv x y) := of_row 20#8 _ _ rfl rfl (fields2_put getWidth_put (getAddr_put.last y))
theorem vdpRdUnexpected x y : Statement (.vdpRdUnexpected x y) := of_row 21#8 _ _ rfl rfl (fields2_put getWidth_put (getAddr_put.last y))
theorem vdpWrData x y : Statement (.vdpWrData x y) := of_row 22#8 _ _ rfl rfl (fields2_put getAddr_put (getDatum_put.last y))
theorem vdpWrControl x y : Statement (.vdpWrControl x y) := of_row 23#8 _ _ rfl rfl (fields2_put getAddr_put (getDatum_put.last y))
theorem vdpWrUnexpected x y : Statement (.vdpWrUnexpected x y) := of_row 24#8 _ _ rfl rfl (fields2_put getAddr_put (getDatum_put.last y))
theorem vdpWrDeferred x y : Statement (.vdpWrDeferred x y) := of_row 25#8 _ _ rfl rfl (fields2_put getAddr_put (getDatum_put.last y))
theorem memmodeWr x y : Statement (.memmodeWr x y) := of_row 26#8 _ _ rfl rfl (fields2_put getAddr_put (getWord_put.last y))
theorem busreqWr x y : Statement (.busreqWr x y) := of_row 27#8 _ _ rfl rfl (fields2_put getAddr_put (getWord_put.last y))
theorem coresetWr x y : Statement (.coresetWr x y) := of_row 28#8 _ _ rfl rfl (fields2_put getAddr_put (getWord_put.last y))
theorem bankselWr x y : Statement (.bankselWr x y) := of_row 29#8 _ _ rfl rfl (fields2_put getAddr_put (getWord_put.last y))
theorem tmssWr x y : Statement (.tmssWr x y) := of_row 30#8 _ _ rfl rfl (fields2_put getAddr_put (getWord_put.last y))
theorem regOtherWr x y : Statement (.regOtherWr x y) := of_row 31#8 _ _ rfl rfl (fields2_put getAddr_put (getWord_put.last y))
theorem busreqRd x y : Statement (.busreqRd x y) := of_row 32#8 _ _ rfl rfl (fields2_put getWidth_put (getAddr_put.last y))
theorem regOtherRd x y : Statement (.regOtherRd x y) := of_row 33#8 _ _ rfl rfl (fields2_put getWidth_put (getAddr_put.last y))
theorem busreqAssert x : Statement (.busreqAssert x) := of_row 34#8 _ _ rfl rfl (fields1_put (getWord_put.last x))
theorem busreqRelease : Statement (.busreqRelease) := of_row 35#8 _ _ rfl rfl (rfl)
theorem busreqUnexpected x y : Statement (.busreqUnexpected x y) := of_row 36#8 _ _ rfl rfl (fields2_put getAddr_put (getWord_put.last y))
theorem coresetAssert x : Statement (.coresetAssert x) := of_row 37#8 _ _ rfl rfl (fields1_put (getAddr_put.last x))
theorem coresetRelease : Statement (.coresetRelease) := of_row 38#8 _ _ rfl rfl (rfl)
theorem coresetReleaseAlt : Statement (.coresetReleaseAlt) := of_row 39#8 _ _ rfl rfl (rfl)
theorem coresetUnexpected x y : Statement (.coresetUnexpected x y) := of_row 40#8 _ _ rfl rfl (fields2_put getAddr_put (getWord_put.last y))
theorem overlayCtrl x : Statement (.overlayCtrl x) := of_row 41#8 _ _ rfl rfl (fields1_put (getWord_put.last x))
theorem bankValue x : Statement (.bankValue x) := of_row 42#8 _ _ rfl rfl (fields1_put (getWord_put.last x))
theorem eepStart : Statement (.eepStart) := of_row 43#8 _ _ rfl rfl (rfl)
theorem eepStop : Statement (.eepStop) := of_row 44#8 _ _ rfl rfl (rfl)
theorem standbyRise x y : Statement (.standbyRise x y) := of_row 45#8 _ _ rfl rfl (fields2_put getBit_put (getBit_put.last y))
theorem standbyFall x y : Statement (.standbyFall x y) := of_row 46#8 _ _ rfl rfl (fields2_put getBit_put (getBit_put.last y))
theorem gwaRise x y : Statement (.gwaRise x y) := of_row 47#8 _ _ rfl rfl (fields2_put getBit_put (getBit_put.last y))
theorem gwaFall x y : Statement (.gwaFall x y) := of_row 48#8 _ _ rfl rfl (fields2_put getBit_put (getBit_put.last y))
theorem writeRise x y : Statement (.writeRise x y) := of_row 49#8 _ _ rfl rfl (fields2_put getBit_put (getBit_put.last y))
theorem writeFall x y : Statement (.writeFall x y) := of_row 50#8 _ _ rfl rfl (fields2_put getBit_put (getBit_put.last y))
theorem readRise x y : Statement (.readRise x y) := of_row 51#8 _ _ rfl rfl (fields2_put getBit_put (getBit_put.last y))
theorem readFall x y : Statement (.readFall x y) := of_row 52#8 _ _ rfl rfl (fields2_put getBit_put (getBit_put.last y))
theorem waitStopRise x y : Statement (.waitStopRise x y) := of_row 53#8 _ _ rfl rfl (fields2_put getBit_put (getBit_put.last y))
theorem waitStopFall x y : Statement (.waitStopFall x y) := of_row 54#8 _ _ rfl rfl (fields2_put getBit_put (getBit_put.last y))
theorem eepNoneLow x y : Statement (.eepNoneLow x y) := of_row 55#8 _ _ rfl rfl (fields2_put getBit_put (getBit_put.last y))
theorem eepNoneHigh0 : Statement (.eepNoneHigh0) := of_row 56#8 _ _ rfl rfl (rfl)
theorem eepNoneHigh1 : Statement (.eepNoneHigh1) := of_row 57#8 _ _ rfl rfl (rfl)
theorem arbPen x y : Statement (.arbPen x y) := of_row 58#8 _ _ rfl rfl (fields2_put getCpu_put (getNat_put y))
theorem arbTakepen x : Statement (.arbTakepen x) := of_row 59#8 _ _ rfl rfl (fields1_put (getCpu_put.last x))
theorem arbDefer x : Statement (.arbDefer x) := of_row 60#8 _ _ rfl rfl (fields1_put (getDeferred_put.last x))
theorem arbDrain : Statement (.arbDrain) := of_row 61#8 _ _ rfl rfl (rfl)
theorem arbIrqMain : Statement (.arbIrqMain) := of_row 62#8 _ _ rfl rfl (rfl)
theorem arbIrqCo : Statement (.arbIrqCo) := of_row 63#8 _ _ rfl rfl (rfl)
theorem arbRunning : Statement (.arbRunning) := of_row 64#8 _ _ rfl rfl (rfl)
theorem arbFreeze x : Statement (.arbFreeze x) := of_row 65#8 _ _ rfl rfl (fields1_put (getBit_put.last x))
theorem vdpSetlines x y : Statement (.vdpSetlines x y) := of_row 66#8 _ _ rfl rfl (fields2_put getBit_put (getBit_put.last y))
theorem cpuIack x y : Statement (.cpuIack x y) := of_row 67#8 _ _ rfl rfl (fields2_put getCpu_put (getIrq_put.last y))
theorem mapRd x y : Statement (.mapRd x y) := of_row 68#8 _ _ rfl rfl (fields2_put getSize_put (getAddr_put.last y))
theorem mapWr x y : Statement (.mapWr x y) := of_row 69#8 _ _ rfl rfl (fields2_put getAddr_put (getBusDatum_put.last y))
theorem mapBanksel x y : Statement (.mapBanksel x y) := of_row 70#8 _ _ rfl rfl (fields2_put getAddr_put (getWord_put.last y))
theorem linRd x y : Statement (.linRd x y) := of_row 71#8 _ _ rfl rfl (fields2_put getSize_put (getAddr_put.last y))
theorem linWr x y : Statement (.linWr x y) := of_row 72#8 _ _ rfl rfl (fields2_put getAddr_put (getBusDatum_put.last y))
theorem linBanksel x y : Statement (.linBanksel x y) := of_row 73#8 _ _ rfl rfl (fields2_put getAddr_put (getWord_put.last y))
theorem pagRd x y : Statement (.pagRd x y) := of_row 74#8 _ _ rfl rfl (fields2_put getSize_put (getAddr_put.last y))
theorem pagWr x y : Statement (.pagWr x y) := of_row 75#8 _ _ rfl rfl (fields2_put getAddr_put (getBusDatum_put.last y))
theorem pagBanksel x y : Statement (.pagBanksel x y) := of_row 76#8 _ _ rfl rfl (fields2_put getAddr_put (getWord_put.last y))
theorem batRd x y : Statement (.batRd x y) := of_row 77#8 _ _ rfl rfl (fields2_put getSize_put (getAddr_put.last y))
theorem batWr x y : Statement (.batWr x y) := of_row 78#8 _ _ rfl rfl (fields2_put getAddr_put (getBusDatum_put.last y))
theorem batBanksel x y : Statement (.batBanksel x y) := of_row 79#8 _ _ rfl rfl (fields2_put getAddr_put (getWord_put.last y))
theorem sramDev x y : Statement (.sramDev x y) := of_row 80#8 _ _ rfl rfl (fields2_put getAddr_put (getAccess_put.last y))
theorem eepromDev x y : Statement (.eepromDev x y) := of_row 81#8 _ _ rfl rfl (fields2_put getAddr_put (getAccess_put.last y))
theorem mapClose : Statement (.mapClose) := of_row 82#8 _ _ rfl rfl (rfl)
theorem eepStep x y : Statement (.eepStep x y) := of_row 83#8 _ _ rfl rfl (fields2_put getBit_put (getBit_put.last y))
theorem eepOut : Statement (.eepOut) := of_row 84#8 _ _ rfl rfl (rfl)
theorem dmaStart x : Statement (.dmaStart x) := of_row 85#8 _ _ rfl rfl (fields1_put (getStart_put x))
theorem dmaSlotFill : Statement (.dmaSlotFill) := of_row 86#8 _ _ rfl rfl (rfl)
theorem dmaSlotCopy : Statement (.dmaSlotCopy) := of_row 87#8 _ _ rfl rfl (rfl)
theorem dmaSlotM68k : Statement (.dmaSlotM68k) := of_row 88#8 _ _ rfl rfl (rfl)
theorem dmaComplete : Statement (.dmaComplete) := of_row 89#8 _ _ rfl rfl (rfl)
theorem fifoPush x y z : Statement (.fifoPush x y z) := of_row 90#8 _ _ rfl rfl (fields3_put getTarget_put getWord_put (getWord_put.last z))
theorem fifoDrain : Statement (.fifoDrain) := of_row 91#8 _ _ rfl rfl (rfl)
theorem dmaStatus : Statement (.dmaStatus) := of_row 92#8 _ _ rfl rfl (rfl)
theorem dmaQslots x y : Statement (.dmaQslots x y) := of_row 93#8 _ _ rfl rfl (fields2_put getHRes_put (getPeriod_put.last y))
theorem dmaReadyedge : Statement (.dmaReadyedge) := of_row 94#8 _ _ rfl rfl (rfl)
theorem schTick : Statement (.schTick) := of_row 95#8 _ _ rfl rfl (rfl)
theorem schNewframe : Statement (.schNewframe) := of_row 96#8 _ _ rfl rfl (rfl)
theorem hostNewframe : Statement (.hostNewframe) := of_row 97#8 _ _ rfl rfl (rfl)
theorem hostReset : Statement (.hostReset) := of_row 98#8 _ _ rfl rfl (rfl)
theorem hostClose : Statement (.hostClose) := of_row 99#8 _ _ rfl rfl (rfl)

end Sys2Proof.Laws.RecordRow
end

