-- ==== Sys2Proof/Laws/Scheduler.lean ====
section
/-! SUPPORT. The units of work and the parts of a tick (R271 to R277): what every operation of a unit keeps, the whole unit keeps, and
no unit touches the scheduler or the session parameters. -/

namespace Sys2Proof.Machine

/-! ## A property of one operation is one of the unit -/

theorem State.runMain_keeps {P : State → Prop} (step : ∀ (s t : State) (op : MainOp), P s → s.mainOp op = .ok t → P t)
    {s t : State} {ops : List MainOp} (h : P s) (e : s.runMain ops = .ok t) : P t := by
  induction ops generalizing s with
  | nil => cases e; exact h
  | cons op ops ih =>
    simp only [State.runMain] at e
    split at e
    · cases e; exact h
    · split at e
      · cases e
      · next h1 => exact ih (step _ _ op h h1) e

theorem State.runCo_keeps {P : State → Prop} (step : ∀ (s : State) (op : CoOp), P s → P (s.coOp op))
    {s : State} (ops : List CoOp) (h : P s) : P (s.runCo ops) := by
  induction ops generalizing s with
  | nil => exact h
  | cons op ops ih => exact ih (step s op h)

theorem State.runVdp_keeps {P : State → Prop} (step : ∀ (s t : State) (op : VdpOp), P s → s.vdpOp op = .ok t → P t)
    {s t : State} {ops : List VdpOp} (h : P s) (e : s.runVdp ops = .ok t) : P t := by
  induction ops generalizing s with
  | nil => cases e; exact h
  | cons op ops ih =>
    simp only [State.runVdp] at e
    split at e
    · cases e
    · next h1 => exact ih (step _ _ op h h1) e

/-! ## The scheduler and the parameters -/

/-- What no unit of work touches. -/
def State.clock (s : State) : SchedState × BusConfig := (s.sched, s.cfg)

theorem State.clock_of_offRead {s t : State} (h : t.offRead = s.offRead) : t.clock = s.clock :=
  (congrArg State.clock h : t.offRead.clock = s.offRead.clock)

theorem State.clock_of_offWrite {s t : State} (h : t.offWrite = s.offWrite) : t.clock = s.clock :=
  (congrArg State.clock h : t.offWrite.clock = s.offWrite.clock)

theorem State.clock_of_offReady {s t : State} (h : t.offReady = s.offReady) : t.clock = s.clock :=
  (congrArg State.clock h : t.offReady.clock = s.offReady.clock)

theorem State.clock_of_offSlot {s t : State} (h : t.offSlot = s.offSlot) : t.clock = s.clock :=
  (congrArg State.clock h : t.offSlot.clock = s.offSlot.clock)

theorem State.mainOp_clock {s t : State} {op : MainOp} (e : s.mainOp op = .ok t) : t.clock = s.clock := by
  cases op with | read n addr => ?_ | write addr v => ?_ | iack which => ?_
  all_goals simp only [State.mainOp, Except.ok.injEq] at e
  · subst e
    exact (State.clock_of_offRead (State.memRead_frame s n addr) : (s.memRead n addr).1.clock = s.clock)
  · exact State.clock_of_offWrite (State.memWrite_frame e)
  · subst e; rfl

theorem State.coOp_clock (s : State) (op : CoOp) : (s.coOp op).clock = s.clock := by cases op <;> rfl

theorem State.vdpOp_clock {s t : State} {op : VdpOp} (e : s.vdpOp op = .ok t) : t.clock = s.clock := by
  cases op <;> simp only [State.vdpOp, Except.ok.injEq] at e
  · obtain ⟨-, rfl⟩ := State.startDma_ok.mp e; rfl
  · exact State.clock_of_offSlot (State.dmaSlot_frame e)
  · exact State.clock_of_offReady (State.fifoDrain_frame e)
  all_goals subst e; rfl

theorem State.runMain_clock {s t : State} {ops : List MainOp} (e : s.runMain ops = .ok t) : t.clock = s.clock :=
  State.runMain_keeps (P := fun x => x.clock = s.clock) (fun _ _ _ h e => (State.mainOp_clock e).trans h) rfl e

theorem State.runCo_clock (s : State) (ops : List CoOp) : (s.runCo ops).clock = s.clock :=
  State.runCo_keeps (P := fun x => x.clock = s.clock) (fun x op h => (State.coOp_clock x op).trans h) ops rfl

theorem State.runVdp_clock {s t : State} {ops : List VdpOp} (e : s.runVdp ops = .ok t) : t.clock = s.clock :=
  State.runVdp_keeps (P := fun x => x.clock = s.clock) (fun _ _ _ h e => (State.vdpOp_clock e).trans h) rfl e

/-! ## The invariant through a unit -/

theorem State.Inv.mainOp {s t : State} {op : MainOp} (h : s.Inv) (e : s.mainOp op = .ok t) : t.Inv := by
  cases op <;> simp only [State.mainOp, Except.ok.injEq] at e
  · subst e; exact (h.memRead _ _).of_view rfl
  · exact h.memWrite e
  · subst e; exact h.of_view rfl

theorem State.Inv.coOp {s : State} (h : s.Inv) (op : CoOp) : (s.coOp op).Inv := by
  have hs := h.stores.coOp op
  cases op
  · exact h.of_view rfl
  · exact ⟨h.cfg, hs, ⟨h.dma.busy, h.dma.length, h.dma.fifo, h.dma.phase⟩, ⟨h.eeprom.cycle, h.eeprom.idle⟩,
      ⟨h.sched.main, h.sched.co, h.sched.vdp, h.sched.audio⟩, h.variant⟩

theorem State.Inv.vdpOp {s t : State} {op : VdpOp} (h : s.Inv) (e : s.vdpOp op = .ok t) : t.Inv := by
  cases op <;> simp only [State.vdpOp, Except.ok.injEq] at e
  · exact h.startDma e
  · exact h.dmaSlot e
  · exact h.fifoDrain e
  all_goals subst e; exact h.of_view rfl

theorem State.Inv.runMain {s t : State} {ops : List MainOp} (h : s.Inv) (e : s.runMain ops = .ok t) : t.Inv :=
  State.runMain_keeps (P := State.Inv) (fun _ _ _ h e => h.mainOp e) h e

theorem State.Inv.runCo {s : State} (h : s.Inv) (ops : List CoOp) : (s.runCo ops).Inv :=
  State.runCo_keeps (P := State.Inv) (fun _ op h => h.coOp op) ops h

theorem State.Inv.runVdp {s t : State} {ops : List VdpOp} (h : s.Inv) (e : s.runVdp ops = .ok t) : t.Inv :=
  State.runVdp_keeps (P := State.Inv) (fun _ _ _ h e => h.vdpOp e) h e

/-- A later due tick leaves no device overdue. -/
theorem le_dueTick (due div cycles : Nat) : due ≤ dueTick due div cycles := Nat.le_add_right _ _

/-- With a divisor of at least 1 a device that did its work is due strictly later (R272). -/
theorem lt_dueTick {due div : Nat} (cycles : Nat) (h : 1 ≤ div) : due < dueTick due div cycles := by
  have h1 : 1 ≤ max 1 cycles := Nat.le_max_left _ _
  have h2 : 1 ≤ div * max 1 cycles := Nat.le_trans h (Nat.le_mul_of_pos_right div h1)
  unfold dueTick
  omega

end Sys2Proof.Machine
end

