-- ==== Sys2Proof/Laws/Session.lean ====
section
/-! SUPPORT. Session creation from a saved image (R311) and what closing hands over (R175): an image is a store in canonical form,
each of its bytes reads back, and a store filled from an image hands that image over. -/

namespace Sys2Proof.Machine

/-- Reading the cells of an image: the byte at that place of the image. -/
theorem imageCells_read (i k : Nat) (bs : List Byte) :
    (imageCells i bs).read? k = if i ≤ k then bs[k - i]? else none := by
  induction bs generalizing i with
  | nil => simp [imageCells, Memory.read?]
  | cons b bs ih =>
    unfold imageCells Memory.read?
    by_cases h : i = k
    · simp [h]
    · by_cases h2 : i ≤ k
      · rw [if_neg h, ih, if_pos (by omega), if_pos h2, show k - i = k - (i + 1) + 1 by omega]
        rfl
      · rw [if_neg h, ih, if_neg (by omega), if_neg h2]

/-- The cells of an image lie inside it. -/
theorem imageCells_mem {i : Nat} {bs : List Byte} {c : Host.Cell} (h : c ∈ imageCells i bs) : i ≤ c.1 ∧ c.1 < i + bs.length := by
  induction bs generalizing i with
  | nil => cases h
  | cons b bs ih =>
    obtain h | h := List.mem_cons.mp h
    · subst h; simp
    · have := ih h; simp only [List.length_cons]; omega

/-- An image is a store in canonical form. -/
theorem imageCells_wf (i : Nat) (bs : List Byte) : (imageCells i bs).wf := by
  induction bs generalizing i with
  | nil => exact Memory.wf_nil
  | cons b bs ih => exact List.pairwise_cons.mpr ⟨fun c hc => (imageCells_mem hc).1, ih (i + 1)⟩

/-- An image cut to a size lies below it. -/
theorem imageCells_below (bs : List Byte) (n : Nat) : (imageCells 0 (bs.take n)).below n := fun _ hc =>
  have := (imageCells_mem hc).2
  have := List.length_take_le n bs
  by omega

/-- A new session with or without an image has canonical stores (R311). -/
theorem State.StoresOk.createSession (cfg : BusConfig) (image : Option (List Byte)) :
    (State.createSession cfg image).StoresOk := by
  have h := State.StoresOk.create cfg
  unfold State.createSession
  split
  · exact h
  · exact h
  · next o bytes ho =>
    cases o.kind
    · refine { h with sramWf := imageCells_wf _ _, sramBelow := fun o' ho' => ?_ }
      rw [Option.some.inj (ho'.symm.trans ho)]
      exact imageCells_below _ _
    · exact { h with eepWf := imageCells_wf _ _, eepBelow := imageCells_below _ _ }

/-- A store filled from an image of its size hands that image over, whatever an unlisted byte reads as. -/
theorem storeImage_image {n : Nat} {bs : List Byte} (h : bs.length = n) (free : Nat → Byte) :
    storeImage (fun k => ((imageCells 0 (bs.take n)).read? k).getD (free k)) n = bs := by
  subst h
  apply List.ext_getElem?
  intro k
  simp only [storeImage, List.getElem?_map, imageCells_read, Nat.zero_le, if_true, Nat.sub_zero, List.take_length]
  by_cases hk : k < bs.length
  · simp [List.getElem?_range hk, List.getElem?_eq_getElem hk]
  · simp [hk]

end Sys2Proof.Machine
end

