-- ==== Sys2Proof/Tests/Slice0.lean ====
section
/-! SUPPORT. Tests of single steps against the vectors of spec/95_test_vectors.md (their ids stand at each test), the refusals of
the static check, one written-out record for every constructor, and the witnesses of the hypotheses of the obligations. -/

namespace Sys2Proof.Tests

open Sys2Proof.Machine

/-! ## Small states -/

/-- CFG-A of the spec, with the ROM bytes the vectors read. -/
def cfgA : BusConfig :=
  { Config.session with
    rom := [(0, 0x00#8), (1, 0x01#8), (2, 0x02#8), (0x100, 0x00#8), (0x101, 0x01#8), (0x102, 0x02#8), (0x103, 0x03#8),
      (0x0FFFFF, 0xFF#8), (0x100000, 0x00#8), (0x2FFFFE, 0xFE#8), (0x2FFFFF, 0xFF#8)]
    version := 0xA0#8
    slots := ⟨16, 167, 18, 205, 4, 5⟩ }

/-- CFG-A with the lock register at the vectors' example address. -/
def cfgT : BusConfig := { cfgA with addrTmss := some 0xA13000#24 }

/-- CFG-B. -/
def cfgB : BusConfig :=
  { cfgA with
    romSize := 0x500000
    rom := [(0x07FFFE, 0x07#8), (0x07FFFF, 0x07#8), (0x280001, 0x28#8), (0x280002, 0x28#8), (0x37FFFE, 0x37#8),
      (0x37FFFF, 0x37#8), (0x380000, 0x38#8), (0x480000, 0x48#8), (0x480001, 0x48#8)] }

/-- CFG-C. -/
def cfgC : BusConfig :=
  { cfgA with
    romSize := 0x100000
    romEnd := 0x0FFFFF#24
    overlay := some ⟨.eeprom, 0x200000#24, 0x200001#24, .readWrite⟩ }

/-- CFG-D. -/
def cfgD : BusConfig :=
  { cfgA with
    romSize := 0x200000
    rom := [(0x10, 0x10#8), (0x11, 0x11#8)]
    overlay := some ⟨.sram, 0x200000#24, 0x20FFFF#24, .disabled⟩ }

/-- The reset state of each configuration. -/
def sA : State := State.create cfgA
def sT : State := State.create cfgT
def sB : State := State.create cfgB
def sC : State := State.create cfgC
def sD : State := State.create cfgD

/-- The ownership pair. -/
def own (s : State) (requested reset : Bool) : State := { s with coCpuBusRequested := requested, coCpuResetAsserted := reset }

/-- CFG-A with access to the co-CPU window. -/
def sOwned : State := own sA true false

/-- CFG-B after the upgrade. -/
def sPaged : State := { sB with mapper := { sB.mapper with variant := .paged, bankRegister := 9 } }

/-- CFG-D with the overlay in a mode. -/
def sOver (m : OverlayMode) : State :=
  { sD with sram := [(0x10, 0xCA#8), (0x11, 0xFE#8)], mapper := { sD.mapper with overlayMode := m } }

/-- The EEPROM in a protocol state, a cycle and a pair of lines. -/
def sEep (st : EepState) (bc : Nat) (c d : Bool) (ar : BitVec 7) (wb : Byte) (rw : Bool) : State :=
  { sC with eep := [(0, 0x81#8), (5, 0xA5#8), (0x7F, 0x7E#8)], eeprom := ⟨st, c, d, false, false, bc, ar, wb, rw⟩ }

/-- An answer of the VDP that starts nothing. -/
def quiet : PortAnswer := ⟨.vram, 0#16, none⟩

/-- An entry of the FIFO. -/
def entry (w : Word) : FifoEntry := ⟨.vram, 0#16, w⟩

/-- The FIFO filled with words 1 to 4, quiet answers laid down. -/
def sFull : State :=
  { sA with
    dma := { sA.dma with fifoQueue := [entry 1#16, entry 2#16, entry 3#16, entry 4#16] }
    inputs := { sA.inputs with port := [quiet, quiet], control := [0x3400#16] } }

/-- A transfer of a mode and a length into a target. -/
def sDma (m : DmaMode) (n : Nat) (t : VdpTarget) (src : Addr) (dst : Word) (phase : Bool) : State :=
  { sA with
    ram := [(0, 0x0E#8), (1, 0x00#8), (0x10, 0x12#8), (0x11, 0x34#8), (0xFFFE, 0xDE#8), (0xFFFF, 0xAD#8)]
    inputs := { sA.inputs with vdpMem := [0xAA#8] }
    dma := ⟨m, n, src, dst, [], m != .none, t, 2#8, 0xEE#8, phase, 0xAA#8⟩ }

/-- Quiet units of one cycle for every device. -/
def sUnits : State :=
  { sA with inputs := { sA.inputs with
      mainUnits := [⟨[], 1⟩], coUnits := [⟨[], 1⟩], vdpUnits := [⟨[], 1, false⟩], audioUnits := [⟨1, 0⟩] } }

/-- The state one operation leaves; the state itself where it stops. -/
def run (i : Instr) (s : State) : State :=
  match exec i s with
  | .next t => t
  | .fault _ => s
  | .refused _ => s

/-- What the operation returned. -/
def reply (i : Instr) (s : State) : Option Reply := (run i s).replies.getLast?

/-- The reason an operation is refused with. -/
def refusal (i : Instr) (s : State) : Option Refusal :=
  match exec i s with
  | .next _ => none
  | .fault _ => none
  | .refused r => some r

/-- The fault an operation ends in. -/
def fault (i : Instr) (s : State) : Option Fault :=
  match exec i s with
  | .next _ => none
  | .fault f => some f
  | .refused _ => none

/-! ## The static check refuses an ill-formed term for each of its tests -/

theorem test_illformed_cart : (Instr.cartRd .byte 0xA00000#24).wf = false ∧ (Instr.rsvWr 0xA00000#24 (.byte 0#8)).wf = false := by
  decide

theorem test_illformed_ram : (Instr.ramRd .word 0xDFFFFF#24).wf = false := by decide

theorem test_illformed_co : (Instr.coWr 0xA10000#24 (.byte 0#8)).wf = false := by decide

theorem test_illformed_io : (Instr.ioRd .byte 0xA10020#24).wf = false := by decide

theorem test_illformed_reg :
    (Instr.regRd .byte 0xA10FFF#24).wf = false ∧ (Instr.memmodeWr 0xA13100#24 0#16).wf = false := by decide

theorem test_illformed_vdp : (Instr.vdpRd .byte 0xE00000#24).wf = false := by decide

theorem test_illformed_gap :
    (Instr.unmappedRd .byte 0xA1001F#24).wf = false ∧ (Instr.unmappedWr 0xE00000#24 (.byte 0#8)).wf = false := by decide

theorem test_illformed_ports :
    (Instr.vdpRdData .byte 0xC00004#24).wf = false ∧ (Instr.vdpRdControl .byte 0xC00008#24).wf = false
    ∧ (Instr.vdpRdHv .byte 0xC0000F#24).wf = false ∧ (Instr.vdpRdUnexpected .byte 0xC0000E#24).wf = false
    ∧ (Instr.vdpWrUnexpected 0xC00007#24 (.byte 0#8)).wf = false
    ∧ (Instr.vdpWrDeferred 0xC00008#24 (.byte 0#8)).wf = false := by decide

theorem test_illformed_values :
    (Instr.busreqAssert 0xFEFF#16).wf = false ∧ (Instr.busreqUnexpected 0xA11100#24 0x0100#16).wf = false
    ∧ (Instr.busreqUnexpected 0xA11100#24 0#16).wf = false ∧ (Instr.coresetUnexpected 0xA11200#24 0x0001#16).wf = false := by
  decide

/-! ## A record for every constructor (log entry 2), and the words the table numbers -/

theorem test_decode_bus :
    decode [0#8, 4#8, 0x00#8, 0x01#8, 0x00#8, 0x01#8] = .ok (.memRead .long 0x01000100#32)
    ∧ decode [1#8, 0x10#8, 0x00#8, 0xFF#8, 0x00#8, 1#8, 0x5A#8] = .ok (.memWrite 0x00FF0010#32 (.byte 0x5A#8))
    ∧ decode [2#8, 2#8, 0x00#8, 0x01#8, 0x00#8] = .ok (.cartRd .word 0x000100#24)
    ∧ decode [3#8, 0x00#8, 0x01#8, 0x00#8, 2#8, 0x34#8, 0x12#8] = .ok (.cartWr 0x000100#24 (.word 0x1234#16))
    ∧ decode [4#8, 1#8, 0x10#8, 0x00#8, 0xFE#8] = .ok (.ramRd .byte 0xFE0010#24)
    ∧ decode [5#8, 0x10#8, 0x00#8, 0xE1#8, 2#8, 0x34#8, 0x12#8] = .ok (.ramWr 0xE10010#24 (.word 0x1234#16))
    ∧ decode [6#8, 2#8, 0x00#8, 0x00#8, 0x40#8] = .ok (.rsvRd .word 0x400000#24)
    ∧ decode [7#8, 0xFF#8, 0xFF#8, 0x9F#8, 1#8, 0x01#8] = .ok (.rsvWr 0x9FFFFF#24 (.byte 0x01#8))
    ∧ decode [8#8, 1#8, 0x10#8, 0x00#8, 0xA0#8] = .ok (.coRd .byte 0xA00010#24)
    ∧ decode [9#8, 0x20#8, 0x00#8, 0xA0#8, 2#8, 0x12#8, 0xAB#8] = .ok (.coWr 0xA00020#24 (.word 0xAB12#16))
    ∧ decode [10#8, 1#8, 0x01#8, 0x00#8, 0xA1#8] = .ok (.ioRd .byte 0xA10001#24)
    ∧ decode [11#8, 0x09#8, 0x00#8, 0xA1#8, 1#8, 0x40#8] = .ok (.ioWr 0xA10009#24 (.byte 0x40#8))
    ∧ decode [12#8, 2#8, 0x00#8, 0x11#8, 0xA1#8] = .ok (.regRd .word 0xA11100#24)
    ∧ decode [13#8, 0x01#8, 0x12#8, 0xA1#8, 1#8, 0x01#8] = .ok (.regWr 0xA11201#24 (.byte 0x01#8)) := by decide

theorem test_decode_vdp :
    decode [14#8, 2#8, 0x04#8, 0x00#8, 0xC0#8] = .ok (.vdpRd .word 0xC00004#24)
    ∧ decode [15#8, 0x05#8, 0x00#8, 0xC0#8, 1#8, 0x81#8] = .ok (.vdpWr 0xC00005#24 (.byte 0x81#8))
    ∧ decode [16#8, 1#8, 0x20#8, 0x00#8, 0xA1#8] = .ok (.unmappedRd .byte 0xA10020#24)
    ∧ decode [17#8, 0x00#8, 0x40#8, 0xA1#8, 2#8, 0x45#8, 0x53#8] = .ok (.unmappedWr 0xA14000#24 (.word 0x5345#16))
    ∧ decode [18#8, 2#8, 0x00#8, 0x00#8, 0xC0#8] = .ok (.vdpRdData .word 0xC00000#24)
    ∧ decode [19#8, 1#8, 0x05#8, 0x00#8, 0xC0#8] = .ok (.vdpRdControl .byte 0xC00005#24)
    ∧ decode [20#8, 2#8, 0x08#8, 0x00#8, 0xC0#8] = .ok (.vdpRdHv .word 0xC00008#24)
    ∧ decode [21#8, 1#8, 0x0F#8, 0x00#8, 0xC0#8] = .ok (.vdpRdUnexpected .byte 0xC0000F#24)
    ∧ decode [22#8, 0x00#8, 0x00#8, 0xC0#8, 1#8, 0x7E#8] = .ok (.vdpWrData 0xC00000#24 (.byte 0x7E#8))
    ∧ decode [23#8, 0x04#8, 0x00#8, 0xC0#8, 2#8, 0x02#8, 0x8F#8] = .ok (.vdpWrControl 0xC00004#24 (.word 0x8F02#16))
    ∧ decode [24#8, 0x11#8, 0x00#8, 0xC0#8, 1#8, 0x9F#8] = .ok (.vdpWrUnexpected 0xC00011#24 (.byte 0x9F#8))
    ∧ decode [25#8, 0x04#8, 0x00#8, 0xC0#8, 1#8, 0x66#8] = .ok (.vdpWrDeferred 0xC00004#24 (.byte 0x66#8)) := by decide

theorem test_decode_registers :
    decode [26#8, 0x00#8, 0x10#8, 0xA1#8, 0x00#8, 0x01#8] = .ok (.memmodeWr 0xA11000#24 0x0100#16)
    ∧ decode [27#8, 0x00#8, 0x11#8, 0xA1#8, 0x00#8, 0x01#8] = .ok (.busreqWr 0xA11100#24 0x0100#16)
    ∧ decode [28#8, 0x00#8, 0x12#8, 0xA1#8, 0x00#8, 0x00#8] = .ok (.coresetWr 0xA11200#24 0x0000#16)
    ∧ decode [29#8, 0xFF#8, 0x30#8, 0xA1#8, 0x09#8, 0x00#8] = .ok (.bankselWr 0xA130FF#24 0x0009#16)
    ∧ decode [30#8, 0x00#8, 0x30#8, 0xA1#8, 0x45#8, 0x53#8] = .ok (.tmssWr 0xA13000#24 0x5345#16)
    ∧ decode [31#8, 0x00#8, 0x20#8, 0xA1#8, 0x00#8, 0x00#8] = .ok (.regOtherWr 0xA12000#24 0x0000#16)
    ∧ decode [32#8, 1#8, 0x01#8, 0x11#8, 0xA1#8] = .ok (.busreqRd .byte 0xA11101#24)
    ∧ decode [33#8, 2#8, 0x00#8, 0x12#8, 0xA1#8] = .ok (.regOtherRd .word 0xA11200#24)
    ∧ decode [34#8, 0xFF#8, 0xFF#8] = .ok (.busreqAssert 0xFFFF#16)
    ∧ decode [35#8] = .ok .busreqRelease
    ∧ decode [36#8, 0x00#8, 0x11#8, 0xA1#8, 0x01#8, 0x00#8] = .ok (.busreqUnexpected 0xA11100#24 0x0001#16)
    ∧ decode [37#8, 0x00#8, 0x12#8, 0xA1#8] = .ok (.coresetAssert 0xA11200#24)
    ∧ decode [38#8] = .ok .coresetRelease
    ∧ decode [39#8] = .ok .coresetReleaseAlt
    ∧ decode [40#8, 0x00#8, 0x12#8, 0xA1#8, 0x01#8, 0x01#8] = .ok (.coresetUnexpected 0xA11200#24 0x0101#16)
    ∧ decode [41#8, 0x03#8, 0x00#8] = .ok (.overlayCtrl 0x0003#16)
    ∧ decode [42#8, 0x4F#8, 0x00#8] = .ok (.bankValue 0x004F#16) := by decide

theorem test_decode_lines :
    decode [43#8] = .ok .eepStart
    ∧ decode [44#8] = .ok .eepStop
    ∧ decode [45#8, 0#8, 1#8] = .ok (.standbyRise false true)
    ∧ decode [46#8, 1#8, 0#8] = .ok (.standbyFall true false)
    ∧ decode [47#8, 0#8, 1#8] = .ok (.gwaRise false true)
    ∧ decode [48#8, 1#8, 0#8] = .ok (.gwaFall true false)
    ∧ decode [49#8, 1#8, 1#8] = .ok (.writeRise true true)
    ∧ decode [50#8, 0#8, 0#8] = .ok (.writeFall false false)
    ∧ decode [51#8, 0#8, 1#8] = .ok (.readRise false true)
    ∧ decode [52#8, 1#8, 0#8] = .ok (.readFall true false)
    ∧ decode [53#8, 0#8, 1#8] = .ok (.waitStopRise false true)
    ∧ decode [54#8, 1#8, 0#8] = .ok (.waitStopFall true false)
    ∧ decode [55#8, 0#8, 1#8] = .ok (.eepNoneLow false true)
    ∧ decode [56#8] = .ok .eepNoneHigh0
    ∧ decode [57#8] = .ok .eepNoneHigh1 := by decide

theorem test_decode_arbiter :
    decode [58#8, 0#8, 3#8] = .ok (.arbPen .main 3)
    ∧ decode [59#8, 1#8] = .ok (.arbTakepen .co)
    ∧ decode [60#8, 0x08#8, 0x00#8, 0xC0#8, 1#8, 0x7E#8] = .ok (.arbDefer ⟨0xC00008#24, .byte 0x7E#8⟩)
    ∧ decode [61#8] = .ok .arbDrain
    ∧ decode [62#8] = .ok .arbIrqMain
    ∧ decode [63#8] = .ok .arbIrqCo
    ∧ decode [64#8] = .ok .arbRunning
    ∧ decode [65#8, 1#8] = .ok (.arbFreeze true)
    ∧ decode [66#8, 1#8, 0#8] = .ok (.vdpSetlines true false)
    ∧ decode [67#8, 0#8, 1#8] = .ok (.cpuIack .main .h) := by decide

theorem test_decode_mapper :
    decode [68#8, 4#8, 0xFE#8, 0xFF#8, 0x37#8] = .ok (.mapRd .long 0x37FFFE#24)
    ∧ decode [69#8, 0x00#8, 0x00#8, 0x38#8, 2#8, 0x34#8, 0x12#8] = .ok (.mapWr 0x380000#24 (.word 0x1234#16))
    ∧ decode [70#8, 0xFF#8, 0x30#8, 0xA1#8, 0x09#8, 0x00#8] = .ok (.mapBanksel 0xA130FF#24 0x0009#16)
    ∧ decode [71#8, 1#8, 0x00#8, 0x00#8, 0x38#8] = .ok (.linRd .byte 0x380000#24)
    ∧ decode [72#8, 0x00#8, 0x00#8, 0x38#8, 1#8, 0x09#8] = .ok (.linWr 0x380000#24 (.byte 0x09#8))
    ∧ decode [73#8, 0xFF#8, 0x30#8, 0xA1#8, 0x09#8, 0x00#8] = .ok (.linBanksel 0xA130FF#24 0x0009#16)
    ∧ decode [74#8, 2#8, 0xFE#8, 0xFF#8, 0x3F#8] = .ok (.pagRd .word 0x3FFFFE#24)
    ∧ decode [75#8, 0x00#8, 0x00#8, 0x38#8, 2#8, 0x34#8, 0x12#8] = .ok (.pagWr 0x380000#24 (.word 0x1234#16))
    ∧ decode [76#8, 0xF0#8, 0x30#8, 0xA1#8, 0x40#8, 0x01#8] = .ok (.pagBanksel 0xA130F0#24 0x0140#16)
    ∧ decode [77#8, 1#8, 0x01#8, 0x00#8, 0x20#8] = .ok (.batRd .byte 0x200001#24)
    ∧ decode [78#8, 0x01#8, 0x00#8, 0x20#8, 1#8, 0x03#8] = .ok (.batWr 0x200001#24 (.byte 0x03#8))
    ∧ decode [79#8, 0xF1#8, 0x30#8, 0xA1#8, 0x03#8, 0x00#8] = .ok (.batBanksel 0xA130F1#24 0x0003#16)
    ∧ decode [80#8, 0x10#8, 0x00#8, 0x20#8, 1#8, 2#8, 0xFE#8, 0xCA#8] = .ok (.sramDev 0x200010#24 (.write (.word 0xCAFE#16)))
    ∧ decode [81#8, 0x00#8, 0x00#8, 0x20#8, 0#8, 1#8] = .ok (.eepromDev 0x200000#24 (.read .byte))
    ∧ decode [82#8] = .ok .mapClose
    ∧ decode [83#8, 1#8, 0#8] = .ok (.eepStep true false)
    ∧ decode [84#8] = .ok .eepOut := by decide

theorem test_decode_engine_and_scheduler :
    decode [85#8, 2#8, 0x00#8, 0x20#8, 0x00#8, 0x01#8, 0x20#8, 1#8, 1#8, 0#8, 2#8]
      = .ok (.dmaStart ⟨.copy, 2, 0x002000#24, 0x2001#16, .cram, 1#8, 0#8⟩)
    ∧ decode [86#8] = .ok .dmaSlotFill
    ∧ decode [87#8] = .ok .dmaSlotCopy
    ∧ decode [88#8] = .ok .dmaSlotM68k
    ∧ decode [89#8] = .ok .dmaComplete
    ∧ decode [90#8, 2#8, 0x00#8, 0x00#8, 0x11#8, 0x11#8] = .ok (.fifoPush .vsram 0x0000#16 0x1111#16)
    ∧ decode [91#8] = .ok .fifoDrain
    ∧ decode [92#8] = .ok .dmaStatus
    ∧ decode [93#8, 0#8, 1#8] = .ok (.dmaQslots .h32 .blank)
    ∧ decode [94#8] = .ok .dmaReadyedge
    ∧ decode [95#8] = .ok .schTick
    ∧ decode [96#8] = .ok .schNewframe
    ∧ decode [97#8] = .ok .hostNewframe
    ∧ decode [98#8] = .ok .hostReset
    ∧ decode [99#8] = .ok .hostClose := by decide

/-- The match and mask words of the table, at both ends of their ranges (R73 to R77); the first matching row is read. -/
theorem test_decode_table_words :
    decodeTableWord 24 0xE00000 = some (.ramRd .byte 0xE00000#24)
    ∧ decodeTableWord 24 0xFFFFFF = some (.ramRd .byte 0xFFFFFF#24)
    ∧ decodeTableWord 24 0xA0FFFF = some (.coRd .byte 0xA0FFFF#24)
    ∧ decodeTableWord 24 0xA1001F = some (.ioRd .byte 0xA1001F#24)
    ∧ decodeTableWord 24 0xDFFFFF = some (.vdpRd .byte 0xDFFFFF#24)
    ∧ decodeTableWord 24 0xA11101 = some (.busreqWr 0xA11101#24 0#16)
    ∧ decodeTableWord 24 0xA130FF = some (.bankselWr 0xA130FF#24 0#16)
    ∧ decodeTableWord 16 0x0100 = some (.busreqAssert 0x0100#16)
    ∧ decodeTableWord 16 0x0000 = some .busreqRelease
    ∧ decodeTableWord 16 0x0001 = some .coresetReleaseAlt
    ∧ decodeTableWord 8 0x07 = some (.vdpRdControl .byte 0xC00007#24)
    ∧ decodeTableWord 24 0x200000 = none := by decide

/-- A step on a presented table word runs that operation (R7). -/
theorem test_step_word : (match step (sOwned.withFetchWord 24 0xA11100) with
    | .next t => t.coCpuBusRequested
    | .fault _ => true
    | .refused _ => true) = false := by decide

/-! ## SystemBus vectors -/

/-- V-B8, V-B9. -/
theorem test_memRead :
    reply (.memRead .long 0x003FFFFE#32) sA = some (.data (.long 0xFF000001#32))
    ∧ reply (.memRead .byte 0x01000100#32) sA = some (.data (.byte 0x00#8)) := by decide

/-- V-B11, V-REG10. -/
theorem test_memWrite :
    (run (.memWrite 0x00E0FFFE#32 (.long 0xAABBCCDD#32)) sA).ram
      = [(0, 0xCC#8), (1, 0xDD#8), (0xFFFE, 0xAA#8), (0xFFFF, 0xBB#8)]
    ∧ (run (.memWrite 0x00A11100#32 (.long 0x01000000#32)) (own sA false false)).log
      = [⟨.unexpectedWrite, .addrVal 0xA11102#24 0x0000#16⟩] := by decide

/-- V-B30: neither half of an invalid LONG is performed. -/
theorem test_memWrite_fatal :
    (run (.memWrite 0x00C10000#32 (.long 0#32)) sFull).fatal = some (.vdpInvalidWrite, 0xC10000#24)
    ∧ (run (.memWrite 0x00C10000#32 (.long 0#32)) sFull).deferredQueue = [] := by decide

/-- V-B7, V-B10. -/
theorem test_cart :
    reply (.cartRd .byte 0x3FFFFF#24) sA = some (.data (.byte 0x00#8))
    ∧ (run (.cartWr 0x000100#24 (.word 0x1234#16)) sA).log = [⟨.romWrite, .addr 0x000100#24⟩] := by decide

/-- S1. -/
theorem test_ram :
    reply (.ramRd .word 0xFF0010#24) (run (.ramWr 0xE10010#24 (.word 0x1234#16)) sA) = some (.data (.word 0x1234#16))
    ∧ (run (.ramWr 0xFFFFFF#24 (.word 0x1234#16)) sA).ram = [(0, 0x34#8), (0xFFFF, 0x12#8)] := by decide

/-- V-B17, V-B18. -/
theorem test_reserved :
    reply (.rsvRd .byte 0x9FFFFF#24) sA = some (.data (.byte 0xFF#8))
    ∧ (run (.rsvWr 0x9FFFFF#24 (.byte 1#8)) sA).log = [⟨.reservedWrite, .addr 0x9FFFFF#24⟩] := by decide

/-- V-B19, V-B19b. -/
theorem test_unmapped :
    reply (.unmappedRd .word 0xB00000#24) sA = some (.data (.word 0xFFFF#16))
    ∧ (run (.unmappedWr 0xA14000#24 (.word 0x5345#16)) sA).log = [⟨.unmappedWrite, .addr 0xA14000#24⟩] := by decide

/-- S3, S4. -/
theorem test_co_access :
    reply (.coRd .word 0xA00010#24) (run (.coWr 0xA00010#24 (.byte 0x55#8)) sOwned) = some (.data (.word 0x5555#16))
    ∧ (run (.coWr 0xA00020#24 (.word 0xAB12#16)) sOwned).comem = [(0x20, 0xAB#8)] := by decide

/-- S2, V-B41. -/
theorem test_co_refused :
    (run (.coRd .byte 0xA00010#24) (own sA true true)).penalty = ⟨3, 0⟩
    ∧ (run (.coWr 0xA00010#24 (.byte 0x55#8)) sA).comem = []
    ∧ (run (.coWr 0xA00010#24 (.byte 0x55#8)) sA).log = [⟨.coNoOwnership, .addr 0xA00010#24⟩] := by decide

/-- V-B32, V-B34. -/
theorem test_ioRd :
    reply (.ioRd .word 0xA10000#24) sA = some (.data (.word 0xA0A0#16))
    ∧ (run (.ioRd .word 0xA1001E#24) sA).calls = [.ioRead 0x1E#24, .ioRead 0x1F#24] := by decide

/-- V-B36, V-B37. -/
theorem test_ioWr :
    (run (.ioWr 0xA10000#24 (.word 0x1234#16)) sA).log
      = [⟨.unexpectedWrite, .addrVal 0xA10000#24 0x12#16⟩, ⟨.unexpectedWrite, .addrVal 0xA10001#24 0x34#16⟩]
    ∧ (run (.ioWr 0xA10002#24 (.word 0x1234#16)) sA).calls = [.ioWrite 2#24 0x12#8, .ioWrite 3#24 0x34#8] := by decide

/-- V-REG13, V-REG8. -/
theorem test_reg :
    reply (.regRd .word 0xA11100#24) sOwned = some (.data (.word 0x0000#16))
    ∧ (run (.regWr 0xA11201#24 (.byte 0x01#8)) (own sA true true)).coCpuResetAsserted = false := by decide

/-- V-B25, V-B29. -/
theorem test_vdp_invalid :
    reply (.vdpRd .word 0xDFFFE0#24) sA = some (.data (.word 0xFFFF#16))
    ∧ (run (.vdpWr 0xC00020#24 (.word 0#16)) sA).fatal = some (.vdpInvalidWrite, 0xC00020#24) := by decide

/-- V-B22, V-B24. -/
theorem test_vdpRd_ports :
    reply (.vdpRdControl .byte 0xC00005#24) sFull = some (.data (.byte 0x00#8))
    ∧ (run (.vdpRdUnexpected .byte 0xC0000F#24) sA).log = [⟨.vdpUnexpectedPort, .addr 0xC0000F#24⟩] := by decide

/-- V-B20, V-B23. -/
theorem test_vdpRd_counters :
    reply (.vdpRdHv .word 0xC00008#24) { sA with inputs := { sA.inputs with vCounter := [0x12#8], hCounter := [0x34#8] } }
      = some (.data (.word 0x1234#16))
    ∧ (run (.vdpRdData .word 0xC00000#24) sA).calls = [.readDataPort] := by decide

/-- V-B27. -/
theorem test_vdpWr_forward :
    (run (.vdpWrData 0xC00000#24 (.byte 0x7E#8)) { sFull with dma := DmaState.reset }).calls
      = [.writeVdpPortWord .data 0x7E7E#16]
    ∧ (run (.vdpWrControl 0xC00005#24 (.byte 0x81#8)) { sFull with dma := DmaState.reset }).calls
      = [.writeVdpPortWord .control 0x8181#16] := by decide

/-- V-B28, V-D9. -/
theorem test_vdpWr_kept :
    (run (.vdpWrUnexpected 0xC00008#24 (.word 1#16)) sA).log = [⟨.vdpUnexpectedPort, .addr 0xC00008#24⟩]
    ∧ (run (.vdpWrDeferred 0xC00004#24 (.byte 0x66#8)) sFull).deferredQueue = [⟨0xC00004#24, .byte 0x66#8⟩] := by decide

/-- V-D8. -/
theorem test_vdp_long_half_deferred :
    (run (.memWrite 0x00C00000#32 (.long 0x44445555#32))
      { sFull with dma := { sFull.dma with fifoQueue := [entry 1#16, entry 2#16, entry 3#16] } }).deferredQueue
      = [⟨0xC00002#24, .word 0x5555#16⟩] := by decide

/-! ## Control-register vectors -/

/-- V-REG11, V-REG12. -/
theorem test_memmode_other :
    (run (.memmodeWr 0xA11000#24 0x0100#16) sA).memoryMode = 0x0100#16
    ∧ (run (.regOtherWr 0xA12000#24 0#16) sA).log = [⟨.unexpectedWrite, .addrVal 0xA12000#24 0#16⟩] := by decide

/-- V-REG3, V-REG4b. -/
theorem test_busreq :
    (run (.busreqWr 0xA11100#24 0xFFFF#16) (own sA false false)).coCpuBusRequested = true
    ∧ (run (.busreqUnexpected 0xA11100#24 0x0001#16) sOwned).coCpuBusRequested = true
    ∧ (run (.busreqAssert 0x0100#16) sA).coCpuBusRequested = true
    ∧ (run .busreqRelease sOwned).coCpuBusRequested = false := by decide

/-- V-REG5, V-REG6, V-REG7, V-REG9. -/
theorem test_coreset :
    (run (.coresetWr 0xA11200#24 0x0000#16) sOwned).calls = [.coReset]
    ∧ (run (.coresetAssert 0xA11200#24) (own sA false false)).coCpuResetAsserted = false
    ∧ (run .coresetRelease (own sA true true)).coCpuResetAsserted = false
    ∧ (run .coresetReleaseAlt (own sA true true)).coCpuResetAsserted = false
    ∧ (run (.coresetUnexpected 0xA11200#24 0x0101#16) sOwned).coCpuResetAsserted = false := by decide

/-- V-REG16. -/
theorem test_tmss :
    (run (.tmssWr 0xA13000#24 0x5345#16) sT).tmssLatch = 0x5345#16
    ∧ (run (.tmssWr 0xA13000#24 0x5345#16) sT).log = [⟨.tmssWrite, .addrVal 0xA13000#24 0x5345#16⟩] := by decide

/-- V-REG14, V-REG15. -/
theorem test_reg_reads :
    reply (.busreqRd .byte 0xA11100#24) sA = some (.data (.byte 0x01#8))
    ∧ reply (.busreqRd .byte 0xA11101#24) sA = some (.data (.byte 0x00#8))
    ∧ reply (.regOtherRd .byte 0xA11000#24) sA = some (.data (.byte 0xFF#8)) := by decide

/-! ## BankMapper vectors -/

/-- V-M1 to V-M6. -/
theorem test_linearIndex :
    linearIndex 0x300000 0x2FFFFF = 0x2FFFFF ∧ linearIndex 0x300000 0x300000 = 1 ∧ linearIndex 0x300000 0x3FFFFF = 0x100000
    ∧ linearIndex 0x300000 0x410000 = 0x010000 ∧ linearIndex 0x500000 0x780000 = 0x280001
    ∧ linearIndex 0x500000 0x800000 = 0 ∧ linearIndex 0x100000 0x1FFFFF = 0x0FFFFF := by decide

/-- V-M7, V-M8, P3 row 2. -/
theorem test_linear :
    reply (.linRd .byte 0x380000#24) sB = some (.data (.byte 0x38#8))
    ∧ (run (.linWr 0x380000#24 (.byte 9#8)) sB).log = [⟨.romWrite, .addr 0x380000#24⟩]
    ∧ (run (.linBanksel 0xA130FF#24 9#16) sB).mapper.variant = .paged
    ∧ (run (.bankselWr 0xA130FF#24 9#16) sB).mapper.bankRegister = 9 := by decide

/-- V-M10, V-M12, V-M15. -/
theorem test_paged :
    reply (.pagRd .long 0x37FFFE#24) sPaged = some (.data (.long 0x37374848#32))
    ∧ (run (.pagWr 0x380000#24 (.word 0x1234#16)) sPaged).log = [⟨.romWrite, .addr 0x380000#24⟩]
    ∧ (run (.pagBanksel 0xA130F2#24 0xFFC7#16) sPaged).mapper.bankRegister = 7
    ∧ (run (.bankValue 0x004F#16) sPaged).mapper.bankRegister = 15 := by decide

/-- V-M26, V-M30, V-M31. -/
theorem test_battery :
    reply (.batRd .word 0x200010#24) sD = some (.data (.word 0x1011#16))
    ∧ (run (.batWr 0x20FFFE#24 (.long 0x11223344#32)) (sOver .readWrite)).log = [⟨.romWrite, .addr 0x210000#24⟩]
    ∧ reply (.batRd .word 0x200010#24) (sOver .readOnly) = some (.data (.word 0xCAFE#16)) := by decide

/-- V-M19, V-M22, V-M23. -/
theorem test_overlay_control :
    (run (.overlayCtrl 3#16) sC).mapper.overlayMode = .readOnly
    ∧ (run (.batBanksel 0xA130F1#24 2#16) sC).mapper.overlayMode = .disabled
    ∧ (run (.batBanksel 0xA130F2#24 1#16) sC).log = [⟨.unexpectedWrite, .addrVal 0xA130F2#24 1#16⟩] := by decide

/-- V-M28, V-M29, and an address outside the store. -/
theorem test_sramDev :
    (run (.sramDev 0x200010#24 (.write (.word 0xCAFE#16))) sD).sram = [(0x10, 0xCA#8), (0x11, 0xFE#8)]
    ∧ reply (.sramDev 0x200011#24 (.read .byte)) (sOver .disabled) = some (.data (.byte 0xFE#8))
    ∧ fault (.sramDev 0x210000#24 (.read .byte)) sD = some .sramIndexOutside := by decide

/-- V-M18, V-M24. -/
theorem test_eepromDev :
    reply (.eepromDev 0x200001#24 (.read .byte)) sC = some (.data (.byte 0x00#8))
    ∧ (run (.eepromDev 0x200000#24 (.write (.word 0x0103#16))) sC).eeprom.clockLine = true := by decide

/-- An overlay of four bytes of SRAM at 0x200000. -/
def cfgTiny : BusConfig := { cfgD with overlay := some ⟨.sram, 0x200000#24, 0x200003#24, .readWrite⟩ }

/-- R311, R175 by hand: a saved image is the store's contents, a write shows in what closing hands over. -/
theorem test_session_image :
    let s0 := State.createSession cfgTiny (some [0x10#8, 0x11#8, 0x12#8, 0x13#8, 0x14#8])
    reply (.batRd .word 0x200002#24) s0 = some (.data (.word 0x1213#16))
    ∧ reply .mapClose (run (.batWr 0x200001#24 (.byte 0xEE#8)) s0) = some (.sramImage [0x10#8, 0xEE#8, 0x12#8, 0x13#8])
    ∧ reply .hostClose (State.createSession cfgA (some [0x10#8])) = some .noImage := by decide

/-- V-M7, V-M8 through the contract. -/
theorem test_contract :
    reply (.mapRd .byte 0x380000#24) sB = some (.data (.byte 0x38#8))
    ∧ (run (.mapWr 0x200010#24 (.word 0x1234#16)) sD).log = [⟨.romWrite, .addr 0x200010#24⟩]
    ∧ (run (.mapBanksel 0xA130F0#24 9#16) sB).mapper.variant = .paged := by decide

/-! ## EEPROM vectors -/

/-- S5 rows 1, 26, 29 and V-E13. -/
theorem test_eepStep :
    (run (.eepStep true false) (sEep .standby 0 true true 0#7 0#8 false)).eeprom.state = .getWordAddress
    ∧ (run (.eepStep true true) (sEep .getWordAddress 7 false true 0#7 0#8 false)).eeprom.readWriteFlag = true
    ∧ reply .eepOut (run (.eepStep true true) (sEep .getWordAddress 8 false true 0#7 0#8 true)) = some (.line false)
    ∧ (run (.eepStep true false) (sEep .getWordAddress 3 true false 0#7 0#8 false)).eeprom.bitCounter = 3 := by decide

/-- X4: cycle 3 of byte 0xA5 shows bit 5. -/
theorem test_eepOut :
    reply .eepOut (sEep .read 3 true false 5#7 0#8 true) = some (.line true)
    ∧ reply .eepOut (sEep .read 2 true true 5#7 0#8 true) = some (.line false) := by decide

/-- V-E3, V-E6. -/
theorem test_start_stop :
    (run .eepStart (sEep .getWordAddress 4 true true 0x78#7 0#8 false)).eeprom.addressRegister = 0x78#7
    ∧ (run .eepStop (sEep .write 9 true false 5#7 0xF0#8 false)).eeprom.state = .standby
    ∧ (run .eepStop (sEep .write 9 true false 5#7 0xF0#8 false)).eepByte 5 = 0xA5#8 := by decide

/-- V-E2, V-E4. -/
theorem test_gwa :
    (run (.gwaRise false true) (sEep .getWordAddress 2 false false 0x60#7 0#8 false)).eeprom.addressRegister = 0x70#7
    ∧ (run (.gwaFall false false) (sEep .getWordAddress 9 true false 5#7 0#8 false)).eeprom.state = .write := by decide

/-- V-E5, V-E7. -/
theorem test_write_frame :
    (run (.writeRise false true) (sEep .write 3 false false 5#7 0x07#8 false)).eeprom.writeBuffer = 0x0F#8
    ∧ (run (.writeFall false false) (sEep .write 9 true false 0x7F#7 0x11#8 false)).eepByte 0x7F = 0x11#8
    ∧ (run (.writeFall false false) (sEep .write 9 true false 0x7F#7 0x11#8 false)).eeprom.addressRegister = 0#7 := by decide

/-- V-E8. -/
theorem test_read_frame :
    (run (.readRise false false) (sEep .read 8 false false 0#7 0#8 true)).eeprom.bitCounter = 9
    ∧ (run (.readFall true true) (sEep .read 9 true true 0#7 0#8 true)).eeprom.state = .waitStop
    ∧ (run (.readFall false false) (sEep .read 9 true false 0x7F#7 0#8 true)).eeprom.addressRegister = 0#7 := by decide

/-- V-E9, V-E14: the idle states only take the lines. -/
theorem test_idle_rows :
    (run (.standbyRise false true) (sEep .standby 0 false false 0#7 0#8 false)).eeprom.state = .standby
    ∧ (run (.standbyFall true false) (sEep .standby 0 true true 0#7 0#8 false)).eeprom.clockLine = false
    ∧ (run (.waitStopRise false true) (sEep .waitStop 0 false false 0#7 0#8 true)).eeprom.bitCounter = 0
    ∧ (run (.waitStopFall true true) (sEep .waitStop 0 true true 0#7 0#8 true)).eeprom.state = .waitStop := by decide

/-- S5 row 25, V-E13, P2 row 8. -/
theorem test_none_rows :
    reply .eepOut (run (.eepNoneLow false true) (sEep .getWordAddress 7 false false 0#7 0#8 false)) = some (.line true)
    ∧ (run .eepNoneHigh0 (sEep .read 4 true false 0#7 0#8 true)).eeprom.bitCounter = 4
    ∧ (run .eepNoneHigh1 (sEep .standby 0 true true 0#7 0#8 true)).eeprom.previousClockLine = true := by decide

/-! ## Engine vectors -/

/-- V-D1, V-D18. -/
theorem test_dmaStart :
    (run (.dmaStart ⟨.fill, 4, 0#24, 0x1000#16, .vram, 1#8, 0xEE#8⟩) sA).dma.lengthCounter = 4
    ∧ refusal (.dmaStart ⟨.fill, 0, 0#24, 0x1000#16, .vram, 1#8, 0xEE#8⟩) sA = some .dmaStartUndefined
    ∧ (run (.dmaStart ⟨.copy, 2, 0#24, 0#16, .cram, 1#8, 0#8⟩) sA).dma.target = .vram := by decide

/-- V-D1, V-D2. -/
theorem test_slots :
    (run .dmaSlotFill (sDma .fill 1 .vram 0#24 0x1003#16 false)).dma.mode = .none
    ∧ (run .dmaSlotFill (sDma .fill 1 .vram 0#24 0x1003#16 false)).calls = [.vdpMemWrite .vram 0x1003#16 0xEE#8]
    ∧ (run .dmaSlotCopy (sDma .copy 2 .vram 0x002000#24 0x2001#16 false)).dma.copyLatch = 0xAA#8
    ∧ (run .dmaSlotCopy (sDma .copy 2 .vram 0x01FFFF#24 0x2001#16 true)).dma.sourceAddress = 0x010000#24 := by decide

/-- V-D3, V-D4, V-D6. -/
theorem test_slot_m68k :
    (run .dmaSlotM68k (sDma .m68kToVram 2 .cram 0xFF0000#24 0#16 false)).calls = [.vdpMemWriteWord .cram 0#16 0x0E00#16]
    ∧ (run .dmaSlotM68k (sDma .m68kToVram 2 .vram 0xE00010#24 0x4000#16 false)).dma.slotPhase = true
    ∧ (run .dmaSlotM68k (sDma .m68kToVram 2 .cram 0xFFFFFE#24 0xFFFF#16 false)).dma.sourceAddress = 0#24 := by decide

/-- V-D5. -/
theorem test_slot_m68k_no_access :
    (run .dmaSlotM68k (sDma .m68kToVram 1 .vsram 0xA00000#24 0#16 false)).calls = [.vdpMemWriteWord .vsram 0#16 0#16]
    ∧ (run .dmaSlotM68k (sDma .m68kToVram 1 .vsram 0xA00000#24 0#16 false)).penalty = ⟨3, 0⟩ := by decide

/-- V-D11, V-A3: one place frees one word, the rest is deferred again. -/
theorem test_fifoDrain :
    (run .fifoDrain { sFull with deferredQueue := [⟨0xC00000#24, .word 10#16⟩, ⟨0xC00000#24, .word 11#16⟩] }).deferredQueue
      = [⟨0xC00000#24, .word 11#16⟩]
    ∧ (run .fifoDrain { sFull with deferredQueue := [⟨0xC00000#24, .word 10#16⟩, ⟨0xC00000#24, .word 11#16⟩] }).logicError
      = true
    ∧ (run .fifoDrain sFull).dma.fifoQueue = [entry 2#16, entry 3#16, entry 4#16] := by decide

/-- V-D7, V-D18. -/
theorem test_fifoPush :
    (run (.fifoPush .vram 0#16 0x1111#16) sA).dma.fifoQueue = [entry 0x1111#16]
    ∧ refusal (.fifoPush .vram 0#16 5#16) sFull = some .fifoFull := by decide

/-- V-D17. -/
theorem test_dmaStatus :
    reply .dmaStatus sFull = some (.status false true false false)
    ∧ reply .dmaStatus (sDma .m68kToVram 1 .cram 0#24 0#16 false) = some (.status true false true true)
    ∧ reply (.dmaQslots .h40 .blank) sA = some (.count 205) := by decide

/-- V-D14, V-D15. -/
theorem test_complete_and_ready :
    (run .dmaComplete (sDma .fill 0 .vram 0#24 0#16 false)).dma.mode = .none
    ∧ (run .dmaReadyedge { sFull with deferredQueue := [⟨0xC00000#24, .word 10#16⟩] }).deferredQueue
      = [⟨0xC00000#24, .word 10#16⟩] := by decide

/-! ## Arbiter and scheduler vectors -/

/-- V-A2. -/
theorem test_penalty :
    (run (.arbPen .main 3) { sA with penalty := ⟨6, 1⟩ }).penalty = ⟨9, 1⟩
    ∧ reply (.arbTakepen .main) { sA with penalty := ⟨9, 1⟩ } = some (.count 9) := by decide

/-- V-A4, V-A5. -/
theorem test_interrupts :
    (run .arbIrqMain (run (.vdpSetlines true false) sA)).pendingMain = ⟨true, false⟩
    ∧ (run .arbIrqCo { sA with vdpHLine := true }).pendingCo = ⟨false, true⟩
    ∧ (run (.cpuIack .main .v) { sA with pendingMain := ⟨true, true⟩, vdpVLine := true }).pendingMain = ⟨false, true⟩ := by
  decide

/-- V-A7, V-D16. -/
theorem test_freeze_and_queue :
    reply .arbRunning (run (.arbFreeze true) sA) = some (.flag false)
    ∧ (run (.arbDefer ⟨0xC00001#24, .byte 0x7E#8⟩) sA).deferredQueue = [⟨0xC00001#24, .byte 0x7E#8⟩]
    ∧ (run .arbDrain { sFull with dma := DmaState.reset, deferredQueue := [⟨0xC00001#24, .byte 0x7E#8⟩] }).calls
      = [.writeVdpPortWord .data 0x7E7E#16] := by decide

/-- V-S1, V-S2 at tick 0. -/
theorem test_tick :
    (run .schTick (own sUnits false false)).calls = [.mainStep, .coStep, .vdpSlot, .soundTick 0]
    ∧ (run .schTick sUnits).sched = ⟨1, 7, 15, 4, 1⟩ := by decide

/-- V-S3, V-S5. -/
theorem test_tick_penalty :
    (run .schTick { sUnits with inputs := { sUnits.inputs with mainUnits := [⟨[.read .byte 0xA00000#32], 4⟩] } }).sched.nextMain
      = 49
    ∧ (run .schTick { sUnits with mainCpuFrozen := true, penalty := ⟨5, 0⟩ }).penalty = ⟨5, 0⟩ := by decide

/-- V-S7. -/
theorem test_newframe :
    (run .schNewframe { sA with sched := ⟨9, 14, 15, 12, 9⟩ }).sched = ⟨0, 5, 6, 3, 0⟩
    ∧ (run .hostNewframe sA).calls = [.onNewFrame] := by decide

/-- V-M16. -/
theorem test_host :
    (run .hostReset sPaged).mapper = ⟨.linear, 7, .disabled⟩
    ∧ (run .hostReset (sOver .readOnly)).sram = [(0x10, 0xCA#8), (0x11, 0xFE#8)]
    ∧ (run .hostClose sA).closed = true := by decide

/-! ## The hypotheses of the obligations are met: `witness_<Name>` for each one that has any, each clause at the ends of its range -/

theorem witness_EncodeThenDecode :
    (Instr.ramRd .byte 0xE00000#24).wf = true ∧ (Instr.ramWr 0xFFFFFF#24 (.word 0#16)).wf = true
    ∧ (Instr.arbDefer ⟨0x000008#24, .byte 0#8⟩).wf = true := by decide

theorem witness_RecordsDecodeOrAreRejected :
    100 ≤ (100#8).toNat ∧ 100#8 ≠ 0xF8#8 ∧ 100#8 ≠ 0xF9#8 ∧ 100#8 ≠ 0xFA#8 ∧ 100 ≤ (0xFF#8).toNat
    ∧ decode [98#8] = .ok .hostReset := by decide

theorem witness_TableWordsDecode :
    0xE00000#24 &&& 0xE00000#24 = 0xE00000#24 ∧ 0xA0FFFF#24 &&& 0xFF0000#24 = 0xA00000#24
    ∧ 0xA1001F#24 &&& 0xFFFFE0#24 = 0xA10000#24 ∧ 0xDFFFFF#24 &&& 0xE00000#24 = 0xC00000#24
    ∧ 0xA11001#24 &&& 0xFFFFFE#24 = 0xA11000#24 ∧ 0xA11101#24 &&& 0xFFFFFE#24 = 0xA11100#24
    ∧ 0xA11201#24 &&& 0xFFFFFE#24 = 0xA11200#24 ∧ 0xA130FF#24 &&& 0xFFFFF0#24 = 0xA130F0#24
    ∧ 0xFFFF#16 &&& 0x0100#16 = 0x0100#16 ∧ 0xE3#8 &&& 0x1C#8 = 0x00#8 ∧ 0xE7#8 &&& 0x1C#8 = 0x04#8 := by decide

/-- Both ends of every region, and the override (V-M17). -/
theorem witness_RegionMap :
    cfgA.ok = true ∧ cfgC.ok = true
    ∧ sA.region 0x000000#24 = .cart ∧ sA.region 0x3FFFFF#24 = .cart ∧ sA.region 0x400000#24 = .reserved
    ∧ sA.region 0x9FFFFF#24 = .reserved ∧ sA.region 0xA00000#24 = .coCpu ∧ sA.region 0xA0FFFF#24 = .coCpu
    ∧ sA.region 0xA10000#24 = .io ∧ sA.region 0xA1001F#24 = .io ∧ sA.region 0xA10020#24 = .unmapped
    ∧ sA.region 0xA10FFF#24 = .unmapped ∧ sA.region 0xA11000#24 = .reg ∧ sA.region 0xA130FF#24 = .reg
    ∧ sA.region 0xA13100#24 = .unmapped ∧ sA.region 0xBFFFFF#24 = .unmapped ∧ sA.region 0xC00000#24 = .vdp
    ∧ sA.region 0xDFFFFF#24 = .vdp ∧ sA.region 0xE00000#24 = .ram ∧ sA.region 0xFFFFFF#24 = .ram
    ∧ sC.region 0x200000#24 = .cart ∧ sC.region 0x200001#24 = .cart ∧ sC.region 0x200002#24 = .reserved
    ∧ sC.region 0x100000#24 = .reserved := by decide

/-- Each selection at both ends; the mapper-control range of `cfgOdd` starts at the odd address of the lock register. -/
def cfgOdd : BusConfig := { cfgT with bankselLo := 0xA13001#24 }

theorem witness_SubDecodes :
    cfgT.ok = true ∧ 0xA130F1#24 &&& 0xFFFFFE#24 ∉ [cfgT.addrMemmode, cfgT.addrBusreq, cfgT.addrCoreset]
    ∧ (cfgOdd.ok = true ∧ regSelOf cfgOdd 0xA13000#24 = .tmss ∧ regSelOf cfgOdd 0xA13001#24 = .banksel)
    ∧ regSelOf cfgT 0xA130F0#24 = .banksel ∧ regSelOf cfgT 0xA130FF#24 = .banksel ∧ regSelOf cfgT 0xA130EF#24 = .other
    ∧ regSelOf cfgT 0xA13001#24 = .tmss := by decide

theorem witness_StepRunsTheDecodedOperation :
    ((sA.present [95#8]).inbox = [95#8] :: [] ∧ decode [95#8] = .ok .schTick ∧ (sA.present [95#8]).closed = false
      ∧ (sA.present [95#8]).fatal = none)
    ∧ (decodeTableWord 24 0xE00000 = some (.ramRd .byte 0xE00000#24) ∧ sA.closed = false ∧ sA.fatal = none)
    ∧ sA.inbox = [] := by decide

/-- A state after a fatal error, with one record presented. -/
def sFatal (r : List Byte) : State := { sA with fatal := some (.vdpInvalidWrite, 0xC00020#24), inbox := [r] }

theorem witness_StepRefusesAfterFatalOrClose :
    ((sA.present []).inbox = [] :: [] ∧ decode [] = .error .empty)
    ∧ (({ sA with closed := true, inbox := [[95#8]] } : State).inbox = [95#8] :: [] ∧ decode [95#8] = .ok .schTick
      ∧ ({ sA with closed := true, inbox := [[95#8]] } : State).closed = true)
    ∧ ((sFatal [95#8]).inbox = [95#8] :: [] ∧ (sFatal [95#8]).fatal ≠ none ∧ (sFatal [95#8]).closed = false
      ∧ Instr.schTick ≠ .hostReset ∧ Instr.schTick ≠ .hostClose)
    ∧ (({ sA with closed := true } : State).inbox = [] ∧ ({ sA with closed := true } : State).closed = true)
    ∧ (({ sFatal [] with inbox := [] } : State).closed = false ∧ ({ sFatal [] with inbox := [] } : State).fatal ≠ none) := by
  decide

/-- The other way round: HOST.RESET runs after a fatal error. -/
theorem test_step_after_fatal : step (sFatal [98#8]) = exec .hostReset { sFatal [98#8] with inbox := [] } := rfl

theorem witness_RamAccess : sA.region 0xE00000#24 = .ram ∧ sA.region 0xFFFFFF#24 = .ram := by decide

theorem witness_RamMirrors :
    sA.region 0xE10010#24 = .ram ∧ sA.region 0xFF0010#24 = .ram ∧ sA.region 0xE00010#24 = .ram
    ∧ 0xFF0010#24 &&& 0xFFFF#24 = 0xE00010#24 &&& 0xFFFF#24 ∧ 0xFF0010#24 &&& 0xFFFF#24 = 0xE10010#24 &&& 0xFFFF#24
    ∧ exec (.ramWr 0xE10010#24 (.word 0x1234#16)) sA = .next (run (.ramWr 0xE10010#24 (.word 0x1234#16)) sA) :=
  ⟨by decide, by decide, by decide, by decide, by decide, rfl⟩

theorem witness_ReservedAndUnmapped :
    sA.region 0x400000#24 = .reserved ∧ sA.region 0x9FFFFF#24 = .reserved ∧ sA.region 0xA10020#24 = .unmapped
    ∧ sA.region 0xBFFFFF#24 = .unmapped := by decide

theorem witness_CoWindowRead :
    (sOwned.region 0xA00000#24 = .coCpu ∧ sOwned.coCpuBusRequested = true ∧ sOwned.coCpuResetAsserted = false)
    ∧ (sA.region 0xA0FFFF#24 = .coCpu ∧ sA.coCpuBusRequested = false)
    ∧ ((own sA true true).region 0xA0FFFF#24 = .coCpu ∧ (own sA true true).coCpuResetAsserted = true) := by decide

theorem witness_CoWindowWrite :
    (sOwned.region 0xA0FFFF#24 = .coCpu ∧ sOwned.coCpuBusRequested = true ∧ sOwned.coCpuResetAsserted = false)
    ∧ (sA.region 0xA00000#24 = .coCpu ∧ sA.coCpuBusRequested = false)
    ∧ ((own sA true true).region 0xA00000#24 = .coCpu ∧ (own sA true true).coCpuResetAsserted = true) := by decide

theorem witness_IoPorts : sA.region 0xA10000#24 = .io ∧ sA.region 0xA1001F#24 = .io := by decide

theorem witness_CartAndContract :
    (sA.region 0x3FFFFF#24 = .cart ∧ sA.mapper.variant = .linear)
    ∧ (sPaged.region 0x380000#24 = .cart ∧ sPaged.mapper.variant = .paged)
    ∧ (sC.region 0x200001#24 = .cart ∧ sC.mapper.variant = .battery) := by decide

theorem witness_BusReadDispatch :
    (sA.region (BitVec.setWidth 24 0x00C00020#32) = .vdp ∧ vdpValid sA.cfg (BitVec.setWidth 24 0x00C00020#32) = false)
    ∧ ¬ (sA.region (BitVec.setWidth 24 0x01000100#32) = .vdp ∧ vdpValid sA.cfg (BitVec.setWidth 24 0x01000100#32) = false) := by
  decide

theorem witness_BusWriteDispatch :
    (sA.region (BitVec.setWidth 24 0x00C10000#32) = .vdp ∧ vdpValid sA.cfg (BitVec.setWidth 24 0x00C10000#32) = false)
    ∧ (¬ (sA.region (BitVec.setWidth 24 0x00E0FFFE#32) = .vdp ∧ vdpValid sA.cfg (BitVec.setWidth 24 0x00E0FFFE#32) = false)
      ∧ exec (.memWrite 0x00E0FFFE#32 (.word (BitVec.extractLsb' 16 16 0xAABBCCDD#32))) sA
        = .next (run (.memWrite 0x00E0FFFE#32 (.word 0xAABB#16)) sA)
      ∧ (run (.memWrite 0x00E0FFFE#32 (.word 0xAABB#16)) sA).region (BitVec.setWidth 24 0x00E0FFFE#32 + 2#24)
        = sA.region (BitVec.setWidth 24 0x00E0FFFE#32)) :=
  ⟨by decide, by decide, rfl, by decide⟩

theorem witness_BusReadFrame :
    sA.region (BitVec.setWidth 24 0x00E00000#32) ≠ .coCpu ∧ sA.region (BitVec.setWidth 24 0x00E00000#32) ≠ .io
    ∧ sA.region (BitVec.setWidth 24 0x00E00000#32) ≠ .vdp := by decide

theorem witness_BusWriteFrame :
    ((sOver .readWrite).region (BitVec.setWidth 24 0x0020FFFF#32) = .cart
      ∧ (sOver .readWrite).cfg.overlay = some ⟨.sram, 0x200000#24, 0x20FFFF#24, .disabled⟩
      ∧ 0x10 ∉ touched (sramIndex ⟨.sram, 0x200000#24, 0x20FFFF#24, .disabled⟩)
        (sramIndexNext ⟨.sram, 0x200000#24, 0x20FFFF#24, .disabled⟩) 0x20FFFF#24 (.long 0#32))
    ∧ (sC.region (BitVec.setWidth 24 0x00200001#32) = .cart
      ∧ sC.cfg.overlay = some ⟨.eeprom, 0x200000#24, 0x200001#24, .readWrite⟩ ∧ 1 ≠ sC.eepIndex)
    ∧ 3 ∉ touched ramIndex ramIndexNext 0xFFFFFF#24 (.long 0#32)
    ∧ 1 ∉ touched (comemIndex sA.cfg) (comemIndex sA.cfg) 0xA0FFFF#24 (.word 0#16)
    ∧ (sA.region (BitVec.setWidth 24 0x00C00000#32) = .vdp ∧ vdpValid sA.cfg (BitVec.setWidth 24 0x00C00000#32) = true)
    ∧ sA.region (BitVec.setWidth 24 0x003FFFFF#32) = .cart ∧ sA.region (BitVec.setWidth 24 0x00FFFFFF#32) = .ram
    ∧ sA.region (BitVec.setWidth 24 0x009FFFFF#32) = .reserved ∧ sA.region (BitVec.setWidth 24 0x00BFFFFF#32) = .unmapped
    ∧ sA.region (BitVec.setWidth 24 0x00A0FFFF#32) = .coCpu ∧ sA.region (BitVec.setWidth 24 0x00A1001F#32) = .io
    ∧ sA.region (BitVec.setWidth 24 0x00A130FF#32) = .reg := by decide

/-- V-B31: both ends of each port, at valid addresses of the window. -/
theorem witness_VdpPortReads :
    (sA.region 0xC00000#24 = .vdp ∧ vdpValid sA.cfg 0xC00000#24 = true ∧ vdpOffsetOf 0xC00000#24 = .data)
    ∧ (sA.region 0xC00003#24 = .vdp ∧ vdpValid sA.cfg 0xC00003#24 = true ∧ vdpOffsetOf 0xC00003#24 = .data)
    ∧ (sA.region 0xC00004#24 = .vdp ∧ vdpValid sA.cfg 0xC00004#24 = true ∧ vdpOffsetOf 0xC00004#24 = .control)
    ∧ (sA.region 0xC00007#24 = .vdp ∧ vdpValid sA.cfg 0xC00007#24 = true ∧ vdpOffsetOf 0xC00007#24 = .control)
    ∧ (sA.region 0xC00008#24 = .vdp ∧ vdpValid sA.cfg 0xC00008#24 = true ∧ vdpOffsetOf 0xC00008#24 = .hv)
    ∧ (sA.region 0xC0000E#24 = .vdp ∧ vdpValid sA.cfg 0xC0000E#24 = true ∧ vdpOffsetOf 0xC0000E#24 = .hv)
    ∧ (sA.region 0xC0000F#24 = .vdp ∧ vdpValid sA.cfg 0xC0000F#24 = true ∧ vdpOffsetOf 0xC0000F#24 = .unexpected)
    ∧ (sA.region 0xC8001F#24 = .vdp ∧ vdpValid sA.cfg 0xC8001F#24 = true ∧ vdpOffsetOf 0xC8001F#24 = .unexpected) := by decide

theorem witness_VdpInvalidAddress :
    (sA.region 0xC00020#24 = .vdp ∧ vdpValid sA.cfg 0xC00020#24 = false)
    ∧ (sA.region 0xDFFFFF#24 = .vdp ∧ vdpValid sA.cfg 0xDFFFFF#24 = false) := by decide

/-- A VDP that starts a fill of `n` on the next port word. -/
def sStart (n : Nat) : State :=
  { sA with inputs := { sA.inputs with port := [⟨.vram, 0#16, some ⟨.fill, n, 0#24, 0#16, .vram, 1#8, 0#8⟩⟩] } }

theorem witness_VdpPortForward :
    ((sStart 1).region 0xC00003#24 = .vdp ∧ vdpValid (sStart 1).cfg 0xC00003#24 = true ∧ (sStart 1).vdpReady = true
      ∧ vdpOffsetOf 0xC00003#24 = .data ∧ (sStart 1).AnswerLegal)
    ∧ ((sStart 0).region 0xC00004#24 = .vdp ∧ vdpValid (sStart 0).cfg 0xC00004#24 = true ∧ (sStart 0).vdpReady = true
      ∧ vdpOffsetOf 0xC00004#24 = .control ∧ ¬ (sStart 0).AnswerLegal) := by
  refine ⟨⟨by decide, by decide, by decide, by decide, ?_⟩, ⟨by decide, by decide, by decide, by decide, ?_⟩⟩
  · intro o ho
    cases ho
    exact ⟨by decide, rfl⟩
  · exact fun h => absurd (h _ rfl).1 (by decide)

theorem witness_VdpWriteDeferredOrDropped :
    (sFull.region 0xC00000#24 = .vdp ∧ vdpValid sFull.cfg 0xC00000#24 = true ∧ vdpOffsetOf 0xC00000#24 = .data
      ∧ sFull.dma.fifoQueue.length = sFull.cfg.fifoCapacity)
    ∧ ((sDma .m68kToVram 1 .vram 0#24 0#16 false).region 0xC00007#24 = .vdp ∧ vdpOffsetOf 0xC00007#24 = .control
      ∧ (sDma .m68kToVram 1 .vram 0#24 0#16 false).dma.mode = .m68kToVram)
    ∧ (vdpOffsetOf 0xC0000E#24 = .hv ∧ vdpValid sA.cfg 0xC0000E#24 = true)
    ∧ (vdpOffsetOf 0xC0000F#24 = .unexpected ∧ vdpValid sA.cfg 0xC0000F#24 = true) := by decide

theorem witness_LatchRegisters :
    (sT.region 0xA11001#24 = .reg ∧ regSelOf sT.cfg 0xA11001#24 = .memmode)
    ∧ (sT.region 0xA13000#24 = .reg ∧ regSelOf sT.cfg 0xA13000#24 = .tmss)
    ∧ (sT.region 0xA12000#24 = .reg ∧ regSelOf sT.cfg 0xA12000#24 = .other) := by decide

theorem witness_BusRequestWrite :
    sA.region 0xA11100#24 = .reg ∧ regSelOf sA.cfg 0xA11100#24 = .busreq ∧ 0x0100#16 &&& 0x0100#16 ≠ 0#16
    ∧ 0xFEFF#16 &&& 0x0100#16 = 0#16 ∧ 0xFEFF#16 ≠ 0#16 := by decide

theorem witness_CoResetWrite :
    (sOwned.region 0xA11200#24 = .reg ∧ regSelOf sOwned.cfg 0xA11200#24 = .coreset ∧ sOwned.coCpuBusRequested = true)
    ∧ (sA.region 0xA11201#24 = .reg ∧ regSelOf sA.cfg 0xA11201#24 = .coreset ∧ sA.coCpuBusRequested = false)
    ∧ 0x0101#16 ≠ 0#16 ∧ 0x0101#16 ≠ 0x0100#16 ∧ 0x0101#16 ≠ 0x0001#16 := by decide

theorem witness_RegisterRead :
    (sA.region 0xA11101#24 = .reg ∧ regSelOf sA.cfg 0xA11101#24 = .busreq)
    ∧ (sA.region 0xA130FF#24 = .reg ∧ regSelOf sA.cfg 0xA130FF#24 ≠ .busreq) := by decide

theorem witness_RegisterWriteDispatch :
    (sT.region 0xA11000#24 = .reg ∧ regSelOf sT.cfg 0xA11000#24 = .memmode) ∧ regSelOf sT.cfg 0xA11101#24 = .busreq
    ∧ regSelOf sT.cfg 0xA11200#24 = .coreset ∧ regSelOf sT.cfg 0xA130F0#24 = .banksel ∧ regSelOf sT.cfg 0xA13001#24 = .tmss
    ∧ (sT.region 0xA130EF#24 = .reg ∧ regSelOf sT.cfg 0xA130EF#24 = .other) := by decide

theorem witness_OwnershipChanges :
    (exec (.memWrite 0x00A11100#32 (.long 0x01000000#32)) sA = .next (run (.memWrite 0x00A11100#32 (.long 0x01000000#32)) sA)
      ∧ (run (.memWrite 0x00A11100#32 (.long 0x01000000#32)) sA).coCpuBusRequested ≠ sA.coCpuBusRequested)
    ∧ (exec (.memWrite 0x00A111FE#32 (.long 0x00000100#32)) sA = .next (run (.memWrite 0x00A111FE#32 (.long 0x00000100#32)) sA)
      ∧ (run (.memWrite 0x00A111FE#32 (.long 0x00000100#32)) sA).coCpuResetAsserted ≠ sA.coCpuResetAsserted)
    ∧ (exec .busreqRelease sOwned = .next (run .busreqRelease sOwned)
      ∧ (run .busreqRelease sOwned).coCpuBusRequested ≠ sOwned.coCpuBusRequested)
    ∧ (exec .coresetRelease sA = .next (run .coresetRelease sA)
      ∧ (run .coresetRelease sA).coCpuResetAsserted ≠ sA.coCpuResetAsserted) :=
  ⟨⟨rfl, by decide⟩, ⟨rfl, by decide⟩, ⟨rfl, by decide⟩, rfl, by decide⟩

/-- The fold on both sides of the size 0x300000, whose power of two is 2^22 (V-M2, V-M4). -/
theorem witness_LinearIndex :
    0x2FFFFF < 0x300000 ∧ (0x300000 ≤ 0x410000 ∧ 0x410000 % 2 ^ 22 ≤ 0x300000 - 1)
    ∧ (0x300000 ≤ 0x300000 ∧ 0x300000 - 1 < 0x300000 % 2 ^ 22) ∧ 0x300000 ≤ 2 ^ 22 ∧ ¬ (0x300000 ≤ 2 ^ 21) := by decide

theorem witness_LinearVariant : sB.mapper.variant = .linear := by decide

theorem witness_PagedVariant : sPaged.mapper.variant = .paged := by decide

theorem witness_BatteryVariant :
    ((sOver .readWrite).mapper.variant = .battery ∧ (sOver .readWrite).cfg.inOverlay 0x20FFFF#24 = true
      ∧ (sOver .readWrite).mapper.overlayMode = .readWrite ∧ (sOver .readWrite).cfg.hasSram = true)
    ∧ (sC.mapper.variant = .battery ∧ sC.cfg.inOverlay 0x200001#24 = true ∧ sC.mapper.overlayMode = .readWrite
      ∧ sC.cfg.hasEeprom = true)
    ∧ ((sOver .readOnly).cfg.inOverlay 0x200000#24 = true ∧ (sOver .readOnly).mapper.overlayMode = .readOnly)
    ∧ sD.cfg.inOverlay 0x210000#24 = false ∧ sD.mapper.overlayMode = .disabled := by decide

theorem witness_OverlayControl :
    sC.mapper.variant = .battery ∧ 0xA130F1#24 &&& 0xFFFFFE#24 = sC.cfg.addrOverlayCtrl
    ∧ 0xA130F2#24 &&& 0xFFFFFE#24 ≠ sC.cfg.addrOverlayCtrl := by decide

theorem witness_SramDevice :
    (sD.cfg.overlay = some ⟨.sram, 0x200000#24, 0x20FFFF#24, .disabled⟩ ∧ 0x200000#24 ≤ 0x20FFFF#24)
    ∧ ¬ (0x200000#24 ≤ 0x210000#24 ∧ 0x210000#24 ≤ 0x20FFFF#24)
    ∧ (sC.cfg.overlay = some ⟨.eeprom, 0x200000#24, 0x200001#24, .readWrite⟩ ∧ OverlayKind.eeprom ≠ .sram) := by decide

theorem witness_EepromDevice : sC.cfg.hasEeprom = true ∧ sD.cfg.hasEeprom = false := by decide

theorem witness_VariantChanges :
    exec (.linBanksel 0xA130F0#24 9#16) sB = .next (run (.linBanksel 0xA130F0#24 9#16) sB)
    ∧ Instr.linBanksel 0xA130F0#24 9#16 ≠ .hostReset ∧ Instr.linBanksel 0xA130F0#24 9#16 ≠ .schTick
    ∧ (run (.linBanksel 0xA130F0#24 9#16) sB).mapper.variant ≠ sB.mapper.variant :=
  ⟨rfl, by decide, by decide, by decide⟩

/-- Lines and protocol state of each row of the line format. -/
theorem witness_LineRowsAreSamples :
    sC.cfg.hasEeprom = true
    ∧ (sEep .standby 0 true true 0#7 0#8 false).LinesAre true true
    ∧ (sEep .write 9 true false 5#7 0xF0#8 false).LinesAre true false
    ∧ ((sEep .standby 0 false true 0#7 0#8 false).LinesAre false true
      ∧ (sEep .standby 0 false true 0#7 0#8 false).eeprom.state = .standby)
    ∧ ((sEep .getWordAddress 9 true false 0#7 0#8 true).LinesAre true false
      ∧ (sEep .getWordAddress 9 true false 0#7 0#8 true).eeprom.state = .getWordAddress)
    ∧ ((sEep .write 8 false false 0#7 0#8 false).LinesAre false false
      ∧ (sEep .write 8 false false 0#7 0#8 false).eeprom.state = .write)
    ∧ ((sEep .read 9 true true 0#7 0#8 true).LinesAre true true
      ∧ (sEep .read 9 true true 0#7 0#8 true).eeprom.state = .read)
    ∧ ((sEep .waitStop 0 false true 0#7 0#8 true).LinesAre false true
      ∧ (sEep .waitStop 0 false true 0#7 0#8 true).eeprom.state = .waitStop) :=
  ⟨rfl, ⟨rfl, rfl⟩, ⟨rfl, rfl⟩, ⟨⟨rfl, rfl⟩, rfl⟩, ⟨⟨rfl, rfl⟩, rfl⟩, ⟨⟨rfl, rfl⟩, rfl⟩, ⟨⟨rfl, rfl⟩, rfl⟩,
    ⟨rfl, rfl⟩, rfl⟩

theorem witness_EepStepTable : (sEep .write 9 true false 0x7F#7 0x11#8 false).cfg.hasEeprom = true := by decide

/-- Each clause of the output at the ends of its cycles. -/
theorem witness_EepOutput :
    ((sEep .read 1 true false 5#7 0#8 true).cfg.hasEeprom = true ∧ (sEep .read 1 true false 5#7 0#8 true).eeprom.state = .read
      ∧ 1 ≤ (sEep .read 1 true false 5#7 0#8 true).eeprom.bitCounter)
    ∧ (sEep .read 8 true false 5#7 0#8 true).eeprom.bitCounter ≤ 8
    ∧ (sEep .write 9 true false 5#7 0#8 true).eeprom.bitCounter = 9
    ∧ (sEep .getWordAddress 9 true false 5#7 0#8 true).eeprom.state = .getWordAddress
    ∧ (sEep .waitStop 0 true false 5#7 0#8 true).eeprom.state = .waitStop
    ∧ (sEep .write 8 true false 5#7 0#8 true).eeprom.bitCounter ≠ 9 := by decide

theorem witness_EepromStoresTheDrivenByte :
    (sEep .write 0 false true 0x7F#7 0#8 false).cfg.hasEeprom = true
    ∧ (sEep .write 0 false true 0x7F#7 0#8 false).eeprom.state = .write
    ∧ (sEep .write 0 false true 0x7F#7 0#8 false).eeprom.bitCounter = 0
    ∧ (sEep .write 0 false true 0x7F#7 0#8 false).eeprom.clockLine = false := by decide

theorem witness_EepromReturnsTheAddressedByte :
    (sEep .read 0 false true 0x7F#7 0#8 true).cfg.hasEeprom = true
    ∧ (sEep .read 0 false true 0x7F#7 0#8 true).eeprom.state = .read
    ∧ (sEep .read 0 false true 0x7F#7 0#8 true).eeprom.bitCounter = 0
    ∧ (sEep .read 0 false true 0x7F#7 0#8 true).eeprom.clockLine = false := by decide

theorem witness_DmaStart :
    (1 ≤ (⟨.copy, 1, 0#24, 0#16, .cram, 1#8, 0#8⟩ : DmaOperands).length ∧ sA.dma.mode = .none)
    ∧ (⟨.fill, 0, 0#24, 0#16, .vram, 1#8, 0#8⟩ : DmaOperands).length = 0
    ∧ (sDma .fill 1 .vram 0#24 0#16 false).dma.mode ≠ .none := by decide

theorem witness_FillAndCopySlots :
    sA.dma.mode = .none
    ∧ ((sDma .fill 2 .vram 0#24 0#16 false).dma.mode = .fill ∧ 2 ≤ (sDma .fill 2 .vram 0#24 0#16 false).dma.lengthCounter)
    ∧ ((sDma .fill 1 .vram 0#24 0#16 false).dma.lengthCounter ≤ 1 ∧ (sDma .fill 1 .vram 0#24 0#16 false).deferredQueue = [])
    ∧ ((sDma .copy 1 .vram 0#24 0#16 false).dma.mode = .copy ∧ (sDma .copy 1 .vram 0#24 0#16 false).dma.slotPhase = false)
    ∧ ((sDma .copy 1 .vram 0#24 0#16 true).dma.mode = .copy ∧ (sDma .copy 1 .vram 0#24 0#16 true).dma.slotPhase = true
      ∧ (sDma .copy 1 .vram 0#24 0#16 true).dma.lengthCounter ≤ 1) := by decide

theorem witness_BusToVdpSlots :
    ((sDma .m68kToVram 1 .vram 0#24 0#16 false).dma.mode = .m68kToVram ∧ (sDma .m68kToVram 1 .vram 0#24 0#16 false).dma.target = .vram
      ∧ (sDma .m68kToVram 1 .vram 0#24 0#16 false).dma.slotPhase = false)
    ∧ (sDma .m68kToVram 2 .vram 0#24 0#16 true).dma.slotPhase = true
    ∧ ((sDma .m68kToVram 1 .cram 0#24 0#16 false).dma.target ≠ .vram ∧ (sDma .m68kToVram 1 .cram 0#24 0#16 false).dma.lengthCounter ≤ 1
      ∧ (sDma .m68kToVram 1 .cram 0#24 0#16 false).deferredQueue = []) := by decide

/-- One VRAM word takes two slots: the premises at k = 1 and at k = 2. -/
theorem witness_TransferTakesTotalSlots :
    1 ≤ (⟨.m68kToVram, 1, 0xFF0000#24, 0#16, .vram, 2#8, 0#8⟩ : DmaOperands).length ∧ sA.dma.mode = .none
    ∧ sA.deferredQueue = [] ∧ 1 < 1 * slotCost .m68kToVram .vram ∧ 2 = 1 * slotCost .m68kToVram .vram := by decide

theorem witness_FifoPushAndDrain :
    sA.dma.fifoQueue.length < sA.cfg.fifoCapacity ∧ sFull.cfg.fifoCapacity ≤ sFull.dma.fifoQueue.length
    ∧ sA.dma.fifoQueue = [] ∧ sFull.dma.fifoQueue = entry 1#16 :: [entry 2#16, entry 3#16, entry 4#16]
    ∧ sFull.deferredQueue = [] := by decide

theorem witness_CompletionAndReadyEdge :
    (sDma .fill 1 .vram 0#24 0#16 false).dma.lengthCounter ≠ 0
    ∧ ((sDma .fill 0 .vram 0#24 0#16 false).dma.lengthCounter = 0 ∧ (sDma .fill 0 .vram 0#24 0#16 false).deferredQueue = [])
    ∧ sFull.vdpReady = false
    ∧ (({ sA with deferredQueue := [⟨0xC00000#24, .word 1#16⟩] } : State).deferredQueue ≠ []
      ∧ ({ sA with deferredQueue := [⟨0xC00000#24, .word 1#16⟩] } : State).vdpReady = true) := by decide

/-- One word in the FIFO, two writes waiting, quiet answers laid down. -/
def sWaiting : State :=
  { sFull with
    dma := { sA.dma with fifoQueue := [entry 1#16] }
    deferredQueue := [⟨0xC00000#24, .word 1#16⟩, ⟨0xC00004#24, .word 2#16⟩] }

/-- A queue with an entry to the HV counter between two port writes. -/
def sMixed : State :=
  { sWaiting with deferredQueue := [⟨0xC00000#24, .word 1#16⟩, ⟨0xC00008#24, .word 3#16⟩, ⟨0xC00004#24, .word 2#16⟩] }

theorem room_sMixed (q : List DeferredWrite) (e : DeferredWrite) (r : List DeferredWrite) (h : sMixed.deferredQueue = q ++ e :: r) :
    sMixed.dma.fifoQueue.length + (dataWrites q).length < sMixed.cfg.fifoCapacity := by
  have h1 := List.length_filter_le (fun e : DeferredWrite => vdpOffsetOf e.addr == .data) q
  have h2 := congrArg List.length h
  have h3 : sMixed.deferredQueue.length = 3 := rfl
  have h4 : sMixed.dma.fifoQueue.length = 1 := rfl
  have h5 : sMixed.cfg.fifoCapacity = 4 := rfl
  simp only [List.length_append, List.length_cons] at h2
  simp only [dataWrites]
  omega

theorem witness_DrainKeepsOrder :
    sMixed.dma.mode ≠ .m68kToVram
    ∧ (∀ q e r, sMixed.deferredQueue = q ++ e :: r → reachesPort e = true →
        sMixed.dma.fifoQueue.length + (dataWrites q).length < sMixed.cfg.fifoCapacity)
    ∧ sMixed.AnswersStartNothing (portWrites sMixed.deferredQueue).length
    ∧ (portWrites sMixed.deferredQueue).length = 2 ∧ (dropEvents sMixed.deferredQueue).length = 1
    ∧ ({ sFull with deferredQueue := sMixed.deferredQueue } : State).vdpReady = false
    ∧ (portWrites [⟨0xC00008#24, .word 3#16⟩, ⟨0xC0001F#24, .byte 3#8⟩] = [])
    ∧ (∀ e ∈ sMixed.deferredQueue, sMixed.region e.addr = .vdp ∧ vdpValid sMixed.cfg e.addr = true)
    ∧ execAll (sMixed.deferredQueue.map (fun e => .vdpWr e.addr e.data)) { sMixed with deferredQueue := [] }
      = .next (run .arbDrain sMixed) := by
  refine ⟨by decide, fun q e r h _ => room_sMixed q e r h, ?_, by decide, by decide, by decide, by decide, by decide, rfl⟩
  intro k hk
  have h3 : (portWrites sMixed.deferredQueue).length = 2 := by decide
  obtain rfl | rfl : k = 0 ∨ k = 1 := by omega
  · rfl
  · rfl

/-- A LONG into the VDP window whose two answers start nothing. -/
theorem witness_BusWriteFrame_vdpLong :
    sWaiting.region (BitVec.setWidth 24 0x00C00000#32) = .vdp ∧ vdpValid sWaiting.cfg (BitVec.setWidth 24 0x00C00000#32) = true
    ∧ sWaiting.AnswersStartNothing 2 := by
  refine ⟨by decide, by decide, fun k hk => ?_⟩
  obtain rfl | rfl : k = 0 ∨ k = 1 := by omega
  · rfl
  · rfl

/-- V-D11: one place left, a data word that takes it, a control byte after it; and with an answer that starts a transfer. -/
def sLastPlace (start : Option DmaOperands) : State :=
  { sFull with
    dma := { sA.dma with fifoQueue := [entry 1#16, entry 2#16, entry 3#16] }
    deferredQueue := [⟨0xC00000#24, .word 0x5555#16⟩, ⟨0xC00004#24, .byte 0x66#8⟩]
    inputs := { sA.inputs with port := [⟨.vram, 0#16, start⟩] } }

theorem witness_DrainKeepsOrder_redeferral (start : Option DmaOperands) :
    (sLastPlace start).deferredQueue = [] ++ ⟨0xC00000#24, .word 0x5555#16⟩ :: [] ++ [⟨0xC00004#24, .byte 0x66#8⟩]
    ∧ reachesPort ⟨0xC00000#24, .word 0x5555#16⟩ = true ∧ (sLastPlace start).dma.mode ≠ .m68kToVram
    ∧ (∀ q e' w, [] ++ (⟨0xC00000#24, .word 0x5555#16⟩ : DeferredWrite) :: [] = q ++ e' :: w → reachesPort e' = true →
        (sLastPlace start).dma.fifoQueue.length + (dataWrites q).length < (sLastPlace start).cfg.fifoCapacity)
    ∧ (∀ k, k < (portWrites [⟨0xC00000#24, .word 0x5555#16⟩]).length → k ≠ (portWrites []).length →
        (((sLastPlace start).inputs.port.drop k).headD (Config.freePortAnswer ((sLastPlace start).draws + k))).start = none)
    ∧ start = (((sLastPlace start).inputs.port.drop 0).headD (Config.freePortAnswer ((sLastPlace start).draws + 0))).start
    ∧ portWrites [] = []
    ∧ (sLastPlace start).dma.fifoQueue.length + (dataWrites (portWrites [⟨0xC00000#24, .word 0x5555#16⟩])).length
        = (sLastPlace start).cfg.fifoCapacity
    ∧ (1 ≤ (⟨.m68kToVram, 1, 0#24, 0#16, .vram, 2#8, 0#8⟩ : DmaOperands).length ∧ (sLastPlace start).dma.mode = .none) := by
  refine ⟨rfl, by decide, nofun, ?_, fun k hk hne => ?_, rfl, rfl, rfl, by decide, rfl⟩
  · intro q e' w h _
    cases q with
    | nil => exact (by decide : 3 + 0 < 4)
    | cons x q => cases q <;> simp at h
  · have h1 : (portWrites [(⟨0xC00000#24, .word 0x5555#16⟩ : DeferredWrite)]).length = 1 := by decide
    have h2 : (portWrites []).length = 0 := rfl
    omega

/-- The queue of `sMixed` with an answer to its first entry that starts a fill. -/
def sFillStart : State :=
  { sMixed with inputs := { sMixed.inputs with
      port := [⟨.vram, 0#16, some ⟨.fill, 2, 0#24, 0#16, .vram, 1#8, 0#8⟩⟩, ⟨.vram, 0#16, none⟩] } }

theorem witness_DrainKeepsOrder_fillStart :
    sFillStart.deferredQueue
      = [] ++ ⟨0xC00000#24, .word 1#16⟩ :: [⟨0xC00008#24, .word 3#16⟩, ⟨0xC00004#24, .word 2#16⟩] ++ []
    ∧ (∀ k, k < 2 → k ≠ 0 →
        ((sFillStart.inputs.port.drop k).headD (Config.freePortAnswer (sFillStart.draws + k))).start = none)
    ∧ (¬ ∃ o, some (⟨.fill, 2, 0#24, 0#16, .vram, 1#8, 0#8⟩ : DmaOperands) = some o ∧ o.mode = .m68kToVram)
    ∧ sFillStart.dma.mode = .none ∧ sFillStart.dma.fifoQueue = sMixed.dma.fifoQueue := by
  refine ⟨rfl, fun k hk hne => ?_, ?_, by decide, rfl⟩
  · obtain rfl : k = 1 := by omega
    rfl
  · rintro ⟨o, h, hm⟩
    cases h
    cases hm

/-- R253 by hand: a fill started by the first entry does not hold back the later ones, and the HV write is dropped. -/
theorem test_drain_fillStart :
    (run .arbDrain sFillStart).deferredQueue = [] ∧ (run .arbDrain sFillStart).dma.mode = .fill
    ∧ (run .arbDrain sFillStart).log = [⟨.vdpUnexpectedPort, .addr 0xC00008#24⟩] := by decide

/-- V-D11 through the drain. -/
theorem test_drain_redefers :
    (run .arbDrain (sLastPlace none)).deferredQueue = [⟨0xC00004#24, .byte 0x66#8⟩]
    ∧ (run .arbDrain (sLastPlace none)).log = [⟨.redeferral, .count 1⟩] := by decide

theorem witness_PendingRecordChanges :
    (exec .arbIrqMain { sA with vdpVLine := true } = .next (run .arbIrqMain { sA with vdpVLine := true })
      ∧ (run .arbIrqMain { sA with vdpVLine := true }).pendingMain ≠ sA.pendingMain)
    ∧ (exec .arbIrqCo { sA with vdpHLine := true } = .next (run .arbIrqCo { sA with vdpHLine := true })
      ∧ (run .arbIrqCo { sA with vdpHLine := true }).pendingCo ≠ sA.pendingCo) :=
  ⟨⟨rfl, by decide⟩, rfl, by decide⟩

theorem witness_ErrorRecordOnlyGrows :
    exec (.rsvWr 0x400000#24 (.byte 0#8)) { sFatal [] with logicError := true }
      = .next (run (.rsvWr 0x400000#24 (.byte 0#8)) { sFatal [] with logicError := true })
    ∧ Instr.rsvWr 0x400000#24 (.byte 0#8) ≠ .hostReset ∧ (sFatal []).fatal ≠ none
    ∧ ({ sFatal [] with logicError := true } : State).logicError = true :=
  ⟨rfl, by decide, by decide, rfl⟩

theorem witness_TickWithQuietUnits :
    (sUnits.fatal = none ∧ sUnits.inputs.mainUnits.head? = some ⟨[], 1⟩ ∧ sUnits.inputs.coUnits.head? = some ⟨[], 1⟩
      ∧ sUnits.inputs.vdpUnits.head? = some ⟨[], 1, false⟩ ∧ sUnits.inputs.audioUnits.head? = some ⟨1, 0⟩)
    ∧ sUnits.sched.nextVdp = sUnits.sched.masterTick
    ∧ ({ sUnits with inputs := { sUnits.inputs with vdpUnits := [⟨[], 1, true⟩] } } : State).inputs.vdpUnits.head?
      = some ⟨[], 1, true⟩ := by decide

/-- A main unit whose second operation is fatal. -/
def sBadUnit : State :=
  { sUnits with inputs := { sUnits.inputs with
      mainUnits := [⟨[.read .byte 0xA00000#32, .write 0xC00020#32 (.byte 0#8), .iack .v], 1⟩] } }

theorem witness_TickRunsUnitsInOrder_main :
    (sUnits.fatal = none ∧ sUnits.cfg.ok = true ∧ sUnits.sched.nextMain = sUnits.sched.masterTick ∧ sUnits.mainCpuFrozen = false)
    ∧ (execAll (sUnits.mainUnit.ops.map mainOpInstr) sUnits.askMainUnit = .next sUnits.askMainUnit
      ∧ sUnits.askMainUnit.fatal = none)
    ∧ (sBadUnit.mainUnit.ops = [.read .byte 0xA00000#32] ++ .write 0xC00020#32 (.byte 0#8) :: [.iack .v]
      ∧ execAll ([MainOp.read .byte 0xA00000#32].map mainOpInstr) sBadUnit.askMainUnit
        = .next (run (.memRead .byte 0xA00000#32) sBadUnit.askMainUnit)
      ∧ (run (.memRead .byte 0xA00000#32) sBadUnit.askMainUnit).fatal = none
      ∧ exec (mainOpInstr (.write 0xC00020#32 (.byte 0#8))) (run (.memRead .byte 0xA00000#32) sBadUnit.askMainUnit)
        = .next (run (.memWrite 0xC00020#32 (.byte 0#8)) (run (.memRead .byte 0xA00000#32) sBadUnit.askMainUnit))
      ∧ (run (.memWrite 0xC00020#32 (.byte 0#8)) (run (.memRead .byte 0xA00000#32) sBadUnit.askMainUnit)).fatal ≠ none)
    ∧ ({ sUnits with mainCpuFrozen := true } : State).mainCpuFrozen = true :=
  ⟨by decide, ⟨rfl, rfl⟩, ⟨rfl, rfl, by decide, rfl, by decide⟩, rfl⟩

/-- Quiet units at a later tick: MAIN not due from here on. -/
def sAt (co vdp audio : Nat) : State := { sUnits with sched := ⟨15, 21, co, vdp, audio⟩ }

theorem witness_TickRunsUnitsInOrder_others :
    ((sAt 15 16 15).fatal = none ∧ (sAt 15 16 15).cfg.ok = true ∧ (sAt 15 16 15).sched.nextMain ≠ (sAt 15 16 15).sched.masterTick
      ∧ (sAt 15 16 15).sched.nextCo = (sAt 15 16 15).sched.masterTick ∧ (sAt 15 16 15).coCpuResetAsserted = true
      ∧ (own (sAt 15 16 15) false false).coCpuResetAsserted = false ∧ (own (sAt 15 16 15) false false).coCpuBusRequested = false)
    ∧ ((sAt 30 15 15).sched.nextCo ≠ (sAt 30 15 15).sched.masterTick
      ∧ (sAt 30 15 15).sched.nextVdp = (sAt 30 15 15).sched.masterTick ∧ (sAt 30 15 15).vdpUnit.newFrame = false)
    ∧ (sAt 30 15 15).askVdpUnit.runVdp (sAt 30 15 15).vdpUnit.ops = .ok (sAt 30 15 15).askVdpUnit
    ∧ ((sAt 30 16 15).sched.nextVdp ≠ (sAt 30 16 15).sched.masterTick
      ∧ (sAt 30 16 15).sched.nextAudio = (sAt 30 16 15).sched.masterTick)
    ∧ (sAt 30 16 16).sched.nextAudio ≠ (sAt 30 16 16).sched.masterTick :=
  ⟨by decide, by decide, rfl, by decide, by decide⟩

theorem witness_FrameBoundary : State.SchedOk { sA with sched := ⟨9, 14, 15, 12, 9⟩ } :=
  ⟨by decide, by decide, by decide, by decide⟩

/-- The invariant holds in CFG-A with a full FIFO and a write waiting. -/
theorem witness_EveryStepKeepsTheInvariant :
    State.Inv { sFull with deferredQueue := [⟨0xC00000#24, .word 1#16⟩], inbox := [[91#8]] }
    ∧ step { sFull with deferredQueue := [⟨0xC00000#24, .word 1#16⟩], inbox := [[91#8]] }
      = .next (run .fifoDrain { sFull with deferredQueue := [⟨0xC00000#24, .word 1#16⟩] }) := by
  refine ⟨⟨by decide, ⟨by decide, by decide, by decide, by decide, by decide, ?_, by decide, by decide⟩,
    ⟨rfl, by decide, by decide, fun _ => rfl⟩, ⟨by decide, fun _ => rfl⟩, ⟨by decide, by decide, by decide, by decide⟩,
    by decide⟩, rfl⟩
  intro o ho
  cases ho

theorem witness_DeferredWritesWaitOnlyWhileBusy :
    (∀ e, Instr.fifoDrain ≠ .arbDefer e) ∧ State.DeferOk { sFull with deferredQueue := [⟨0xC00000#24, .word 1#16⟩] }
    ∧ exec .fifoDrain { sFull with deferredQueue := [⟨0xC00000#24, .word 1#16⟩] }
      = .next (run .fifoDrain { sFull with deferredQueue := [⟨0xC00000#24, .word 1#16⟩] }) :=
  ⟨fun _ h => (by cases h), fun _ => (by decide), rfl⟩

theorem witness_CloseSession :
    (sC.cfg.overlay = some ⟨.eeprom, 0x200000#24, 0x200001#24, .readWrite⟩ ∧ (List.replicate 128 7#8).length = sC.cfg.eepromSize)
    ∧ cfgTiny.overlay = some ⟨.sram, 0x200000#24, 0x200003#24, .readWrite⟩ ∧ cfgA.overlay = none :=
  ⟨⟨rfl, List.length_replicate⟩, rfl, rfl⟩

theorem witness_InvariantsHoldAtReset :
    cfgA.ok = true ∧ cfgB.ok = true ∧ cfgC.ok = true ∧ cfgD.ok = true ∧ cfgT.ok = true := by decide

/-- The memories of the reset state are canonical. -/
theorem reset_memory_wf :
    State.reset.ram.wf ∧ State.reset.comem.wf ∧ State.reset.sram.wf ∧ State.reset.eep.wf := by decide

end Sys2Proof.Tests
end

section
/-! PROOFS. RAM mirroring and the round trip of a RAM write (R48, R104, R105). The handlers see an address only through `ramIndex`
and `ramIndexNext`, and both depend on its low 16 bits alone. -/

namespace Sys2Proof.Machine

/-! ## Mirrors have the same indices -/

theorem ramIndex_of_mirror {a b : Addr} (h : b &&& 0xFFFF#24 = a &&& 0xFFFF#24) : ramIndex b = ramIndex a :=
  congrArg BitVec.toNat h

theorem ramIndexNext_of_mirror {a b : Addr} (h : b &&& 0xFFFF#24 = a &&& 0xFFFF#24) :
    ramIndexNext b = ramIndexNext a :=
  congrArg (fun i : Addr => ((i + 1#24) &&& 0xFFFF#24).toNat) h

theorem ramIndexNext_eq (a : Addr) : ramIndexNext a = (ramIndex a + 1) % 0x10000 := by
  have hlt : ramIndex a < 0x10000 := ramIndex_lt a
  have hsucc : ((a &&& 0xFFFF#24) + 1#24).toNat = ramIndex a + 1 :=
    (BitVec.toNat_add _ _).trans (Nat.mod_eq_of_lt (show ramIndex a + 1 < 2 ^ 24 by omega))
  have hmask : (0xFFFF#24).toNat = 2 ^ 16 - 1 := rfl
  rw [ramIndexNext, BitVec.toNat_and, hsucc, hmask, Nat.and_two_pow_sub_one_eq_mod]

/-- The two bytes of a WORD are two places, also at the wrap, so storing the second one keeps the first. -/
theorem ramIndex_ne_ramIndexNext (a : Addr) : ramIndex a ≠ ramIndexNext a := by
  have hlt : ramIndex a < 0x10000 := ramIndex_lt a
  rw [ramIndexNext_eq]
  omega

/-! ## The RAM handlers -/

theorem wordOf_highByte_lowByte (w : Word) : wordOf (highByte w) (lowByte w) = w :=
  (BitVec.extractLsb'_append_extractLsb'_eq_extractLsb' rfl).trans BitVec.extractLsb'_eq_self

/-- R48: a read depends on the low 16 bits of its address alone. -/
theorem State.ramRead_of_mirror (s : State) (n : Width) {a b : Addr} (h : b &&& 0xFFFF#24 = a &&& 0xFFFF#24) :
    s.ramRead n b = s.ramRead n a := by
  simp only [State.ramRead, ramIndex_of_mirror h, ramIndexNext_of_mirror h]

@[simp] theorem State.ramRead_ramWrite_byte (s : State) (a : Addr) (x : Byte) :
    (s.ramWrite a (.byte x)).ramRead .byte a = .byte x := by
  simp only [State.ramRead, State.ramByte_ramWrite, if_true]

@[simp] theorem State.ramRead_ramWrite_word (s : State) (a : Addr) (x : Word) :
    (s.ramWrite a (.word x)).ramRead .word a = .word x := by
  simp only [State.ramRead, State.ramByte_ramWrite, if_true, if_neg (ramIndex_ne_ramIndexNext a), wordOf_highByte_lowByte]

@[simp] theorem State.region_ramWrite (s : State) (a b : Addr) (v : Datum) : (s.ramWrite a v).region b = s.region b := by
  cases v <;> rfl

/-- RAM.RD of a RAM address (R104): the handler's datum is the reply, and nothing else changes. -/
theorem exec_ramRd_of_ram {s : State} {a : Addr} (h : s.region a = .ram) (n : Width) :
    exec (.ramRd n a) s = .next { s with replies := s.replies ++ [.data (s.ramRead n a).toBus] } :=
  whenSelected_next.mpr ⟨beq_iff_eq.mpr h, rfl⟩

/-- A RAM.WR that completes is the handler's write (R105). -/
theorem exec_ramWr_next {s t : State} {a : Addr} {v : Datum} (h : exec (.ramWr a v) s = .next t) : t = s.ramWrite a v := by
  obtain ⟨-, hnext⟩ := whenSelected_next.mp h
  exact (Host.Outcome.next.inj hnext).symm

/-! ## The obligation -/

/-- Settles O9: mirrors read the same since they have the same indices, and the write's own address reads back what was written. -/
theorem ramMirrors : Obligations.RamMirrors := by
  intro s t a b c v n _ hb hc hbc hwr
  obtain rfl := exec_ramWr_next hwr
  refine ⟨((s.ramWrite a v).ramRead n b).toBus, ?_, ?_, fun hba => ⟨?_, ?_⟩⟩
  · exact exec_ramRd_of_ram (by rwa [State.region_ramWrite]) n
  · rw [State.ramRead_of_mirror _ n hbc]
    exact exec_ramRd_of_ram (by rwa [State.region_ramWrite]) n
  · rintro x rfl rfl
    rw [State.ramRead_of_mirror _ _ hba, State.ramRead_ramWrite_byte, Datum.toBus]
  · rintro x rfl rfl
    rw [State.ramRead_of_mirror _ _ hba, State.ramRead_ramWrite_word, Datum.toBus]

end Sys2Proof.Machine
end

section
/-! PROOFS. The reserved and the unmapped rows (R106, R107, R116, R117). With the region matched, a read is one log entry and the
all-ones datum of its width as the reply, a write is the log entry alone. -/

namespace Sys2Proof.Machine

/-! ## What each row does in its region, at every width -/

theorem exec_rsvRd_of_reserved {s : State} {a : Addr} (h : s.region a = .reserved) (n : Width) :
    exec (.rsvRd n a) s = .next ((s.addLog .reservedRead (.addr a)).addReply (.data (ones n).toBus)) :=
  whenSelected_next.mpr ⟨beq_iff_eq.mpr h, rfl⟩

theorem exec_rsvWr_of_reserved {s : State} {a : Addr} (h : s.region a = .reserved) (v : Datum) :
    exec (.rsvWr a v) s = .next (s.addLog .reservedWrite (.addr a)) :=
  whenSelected_next.mpr ⟨beq_iff_eq.mpr h, rfl⟩

theorem exec_unmappedRd_of_unmapped {s : State} {a : Addr} (h : s.region a = .unmapped) (n : Width) :
    exec (.unmappedRd n a) s = .next ((s.addLog .unmappedRead (.addr a)).addReply (.data (ones n).toBus)) :=
  whenSelected_next.mpr ⟨beq_iff_eq.mpr h, rfl⟩

theorem exec_unmappedWr_of_unmapped {s : State} {a : Addr} (h : s.region a = .unmapped) (v : Datum) :
    exec (.unmappedWr a v) s = .next (s.addLog .unmappedWrite (.addr a)) :=
  whenSelected_next.mpr ⟨beq_iff_eq.mpr h, rfl⟩

/-! ## The obligation -/

/-- Settles O10: each row at its region, a read at both widths. -/
theorem reservedAndUnmapped : Obligations.ReservedAndUnmapped := by
  intro s a v
  refine ⟨fun hrsv => ⟨?_, ?_, ?_⟩, fun hgap => ⟨?_, ?_, ?_⟩⟩
  · exact exec_rsvRd_of_reserved hrsv .byte
  · exact exec_rsvRd_of_reserved hrsv .word
  · exact exec_rsvWr_of_reserved hrsv v
  · exact exec_unmappedRd_of_unmapped hgap .byte
  · exact exec_unmappedRd_of_unmapped hgap .word
  · exact exec_unmappedWr_of_unmapped hgap v

end Sys2Proof.Machine
end

section
/-! PROOFS. The bus-request register (R141, R77): one equation per value pattern of the write, one rule per row at its register. -/

namespace Sys2Proof.Machine

/-! ## The value patterns and the write -/

theorem valAsserts_iff {val : Word} : valAsserts val = true ↔ val &&& 0x0100#16 ≠ 0#16 := bne_iff_ne

theorem State.busreqWrite_of_asserts {val : Word} (h : val &&& 0x0100#16 ≠ 0#16) (s : State) (a : Addr) :
    s.busreqWrite a val = s.setBusreq true :=
  if_pos (valAsserts_iff.mpr h)

@[simp] theorem State.busreqWrite_zero (s : State) (a : Addr) : s.busreqWrite a 0#16 = s.setBusreq false := rfl

theorem State.busreqWrite_of_unexpected {val : Word} (hbit : val &&& 0x0100#16 = 0#16) (hne : val ≠ 0#16) (s : State)
    (a : Addr) : s.busreqWrite a val = s.unexpectedValue a val := by
  have hassert : ¬ valAsserts val = true := fun h => valAsserts_iff.mp h hbit
  rw [State.busreqWrite, if_neg hassert, if_neg hne]

/-! ## The rows -/

theorem State.selectsReg_iff {s : State} {a : Addr} {r : RegSel} :
    s.selectsReg a r = true ↔ s.region a = .reg ∧ regSelOf s.cfg a = r := by
  simp only [State.selectsReg, State.region, Bool.and_eq_true, beq_iff_eq]

theorem exec_busreqWr_of_busreq {s : State} {a : Addr} (hsel : s.selectsReg a .busreq = true) (val : Word) :
    exec (.busreqWr a val) s = .next (s.busreqWrite a val) :=
  whenSelected_next.mpr ⟨hsel, rfl⟩

theorem exec_busreqUnexpected_of_busreq {s : State} {a : Addr} (hsel : s.selectsReg a .busreq = true) (val : Word) :
    exec (.busreqUnexpected a val) s = .next (s.unexpectedValue a val) :=
  whenSelected_next.mpr ⟨hsel, rfl⟩

/-! ## The obligation -/

/-- Settles O24: the two value rows set the flag outright; the write at its register takes the pattern of its value, and a value no
pattern takes leaves the write and its own row at the same log entry. -/
theorem busRequestWrite : Obligations.BusRequestWrite := by
  intro s a val
  refine ⟨fun _ => rfl, rfl, fun hreg hbus => ?_⟩
  have hsel : s.selectsReg a .busreq = true := State.selectsReg_iff.mpr ⟨hreg, hbus⟩
  rw [exec_busreqWr_of_busreq hsel]
  refine ⟨fun hbit => ?_, fun hzero => ?_, fun hbit hne => ?_⟩
  · rw [State.busreqWrite_of_asserts hbit, State.setBusreq]
  · rw [hzero, State.busreqWrite_zero, State.setBusreq]
  · rw [State.busreqWrite_of_unexpected hbit hne]
    exact ⟨s.unexpectedValue a val, rfl, rfl, exec_busreqUnexpected_of_busreq hsel val⟩

end Sys2Proof.Machine
end

section
/-! PROOFS. The records (log entry 2): every operation's record is read back by its row. -/

namespace Sys2Proof

open Laws.RecordRow

/-! ## Every row reads its own record -/

/-- The row a record names reads it, for all hundred rows in the order of the table. -/
theorem recordRow (i : Instr) : Statement i := by
  cases i
  exacts [
    -- Format B
    memRead _ _, memWrite _ _, cartRd _ _, cartWr _ _, ramRd _ _, ramWr _ _, rsvRd _ _, rsvWr _ _, coRd _ _, coWr _ _,
    ioRd _ _, ioWr _ _, regRd _ _, regWr _ _, vdpRd _ _, vdpWr _ _, unmappedRd _ _, unmappedWr _ _, vdpRdData _ _,
    vdpRdControl _ _, vdpRdHv _ _, vdpRdUnexpected _ _, vdpWrData _ _, vdpWrControl _ _, vdpWrUnexpected _ _,
    vdpWrDeferred _ _, memmodeWr _ _, busreqWr _ _, coresetWr _ _, bankselWr _ _, tmssWr _ _, regOtherWr _ _,
    busreqRd _ _, regOtherRd _ _,
    -- Format V
    busreqAssert _, busreqRelease, busreqUnexpected _ _, coresetAssert _, coresetRelease, coresetReleaseAlt,
    coresetUnexpected _ _, overlayCtrl _, bankValue _,
    -- Format E
    eepStart, eepStop, standbyRise _ _, standbyFall _ _, gwaRise _ _, gwaFall _ _, writeRise _ _, writeFall _ _,
    readRise _ _, readFall _ _, waitStopRise _ _, waitStopFall _ _, eepNoneLow _ _, eepNoneHigh0, eepNoneHigh1,
    -- Format P
    arbPen _ _, arbTakepen _, arbDefer _, arbDrain, arbIrqMain, arbIrqCo, arbRunning, arbFreeze _, vdpSetlines _ _,
    cpuIack _ _, mapRd _ _, mapWr _ _, mapBanksel _ _, linRd _ _, linWr _ _, linBanksel _ _, pagRd _ _, pagWr _ _,
    pagBanksel _ _, batRd _ _, batWr _ _, batBanksel _ _, sramDev _ _, eepromDev _ _, mapClose, eepStep _ _, eepOut,
    dmaStart _, dmaSlotFill, dmaSlotCopy, dmaSlotM68k, dmaComplete, fifoPush _ _ _, fifoDrain, dmaStatus,
    dmaQslots _ _, dmaReadyedge, schTick, schNewframe, hostNewframe, hostReset, hostClose]

/-- Settles O1: the record's first byte selects the operation's row, and that row reads the rest back. -/
theorem encodeThenDecode : Obligations.EncodeThenDecode := by
  intro i hwf
  obtain ⟨row, bs, fields, henc, hrow, hread⟩ := recordRow i
  rw [henc]
  exact decode_row hrow hread hwf

/-! ## Records written out, and what is no record -/

/-- The table has a hundred rows, and no bare form but the three tags. -/
theorem decode_unknownRow {b : Byte} (bs : List Byte) (hb : 100 ≤ b.toNat) (h24 : b ≠ 0xF8#8) (h16 : b ≠ 0xF9#8)
    (h8 : b ≠ 0xFA#8) : decode (b :: bs) = .error (.unknownRow b.toNat) := by
  have hrow : opcodeRows[b.toNat]? = none := List.getElem?_eq_none hb
  have hfields : decodeFields (b :: bs) = .error (.unknownRow b.toNat) := by
    unfold decodeFields
    split <;> simp_all
  rw [decode, hfields]

/-- Settles O2: the written-out records by evaluation, the two general clauses by the decoder's laws. -/
theorem recordsDecodeOrAreRejected : Obligations.RecordsDecodeOrAreRejected := by
  refine ⟨rfl, rfl, rfl, rfl, rfl, rfl, rfl, rfl, rfl, rfl, rfl, rfl, rfl, rfl, rfl, rfl, rfl, rfl, rfl, rfl, ?_, ?_⟩
  · exact fun b bs hb h24 h16 h8 => decode_unknownRow bs hb h24 h16 h8
  · exact fun r i => decode_wf

/-! ## Bare table words -/

/-- A bare word is read as itself. -/
theorem decodeFields_word24 {w : Nat} (hw : w < 2 ^ 24) : decodeFields (tableRecord 24 w) = decodeBare 24 w := by
  refine congrArg (decodeBare 24) ?_
  simp only [natOfBytes, BitVec.toNat_ofNat]
  omega

theorem decodeFields_word16 {w : Nat} (hw : w < 2 ^ 16) : decodeFields (tableRecord 16 w) = decodeBare 16 w := by
  refine congrArg (decodeBare 16) ?_
  simp only [natOfBytes, BitVec.toNat_ofNat]
  omega

theorem decodeFields_word8 {w : Nat} (hw : w < 2 ^ 8) : decodeFields (tableRecord 8 w) = decodeBare 8 w := by
  refine congrArg (decodeBare 8) ?_
  simp only [natOfBytes, BitVec.toNat_ofNat]
  omega

/-- A row that matches keeps out every other row whose pattern differs where both masks have bits. -/
def TableRow.excludes (r r' : TableRow) : Bool :=
  r'.nbits != r.nbits || r.pattern &&& r'.mask != r'.pattern &&& r.mask

theorem TableRow.matches_false_of_excludes {r r' : TableRow} {w : Nat} (hw : w &&& r.mask = r.pattern)
    (hex : r.excludes r' = true) : r'.matches r.nbits w = false := by
  by_contra hmatch
  obtain ⟨hbits, hmask⟩ : r'.nbits = r.nbits ∧ w &&& r'.mask = r'.pattern := by
    simpa [TableRow.matches] using hmatch
  have hshared : r.pattern &&& r'.mask = r'.pattern &&& r.mask := by
    rw [← hw, ← hmask, Nat.and_right_comm]
  simp [TableRow.excludes, hbits, hshared] at hex

/-- A matching row keeps out those before it, so it is the first match. -/
theorem decodeBare_of_row (k : Nat) {nbits : Nat} {r : TableRow} {w : Nat} (hrow : tableRows[k]? = some r)
    (hfirst : (tableRows.take k).all r.excludes = true) (hbits : r.nbits = nbits) (hw : w &&& r.mask = r.pattern) :
    decodeBare nbits w = .ok (r.op w) := by
  subst hbits
  obtain ⟨hk, hget⟩ := List.getElem?_eq_some_iff.mp hrow
  have hfind : tableRows.find? (fun r' => r'.matches r.nbits w) = some r := by
    refine List.find?_eq_some_iff_append.mpr ⟨by simp [TableRow.matches, hw], tableRows.take k, tableRows.drop (k + 1), ?_, ?_⟩
    · rw [← hget, List.getElem_cons_drop, List.take_append_drop]
    · intro r' hr'
      simp [TableRow.matches_false_of_excludes hw (List.all_eq_true.mp hfirst r' hr')]
  rw [decodeBare, hfind]

theorem toNat_and_eq {n : Nat} {a m p : BitVec n} (h : a &&& m = p) : a.toNat &&& m.toNat = p.toNat := by
  rw [← BitVec.toNat_and, h]

/-- A bare word of a row whose operation it makes well-formed. -/
theorem decodeTableWord_of_row (k : Nat) {nbits : Nat} {r : TableRow} {w : Nat}
    (hfields : decodeFields (tableRecord nbits w) = decodeBare nbits w) (hrow : tableRows[k]? = some r)
    (hfirst : (tableRows.take k).all r.excludes = true) (hbits : r.nbits = nbits) (hw : w &&& r.mask = r.pattern)
    (hwf : (r.op w).wf = true) : decodeTableWord nbits w = some (r.op w) := by
  simp [decodeTableWord, decode, hfields, decodeBare_of_row k hrow hfirst hbits hw, hwf]

/-! ## The registers' windows -/

/-- The bits under a mask and the bits beside it make the address. -/
theorem addr_toNat_split (a m : Addr) : a.toNat = ((a &&& m).toNat + (a &&& ~~~m).toNat) % 2 ^ 24 := by
  have hdisjoint : (a &&& m) &&& (a &&& ~~~m) = 0#24 := by ext i; simp +contextual
  have hjoin : (a &&& m) ||| (a &&& ~~~m) = a := by ext i; simp [← Bool.and_or_distrib_left]
  rw [← BitVec.toNat_add, BitVec.add_eq_or_of_and_eq_zero _ _ hdisjoint, hjoin]

/-- A match whose block of addresses lies in the REG window. -/
theorem inRegWindow_of_match {a m p : Addr} (h : a &&& m = p) (hlo : 0xA11000 ≤ p.toNat)
    (hhi : p.toNat + (~~~m).toNat ≤ 0xA130FF) : inRegWindow a = true := by
  have hsplit := addr_toNat_split a m
  have hrest : (a &&& ~~~m).toNat ≤ (~~~m).toNat := Machine.toNat_and_le a (~~~m)
  rw [h] at hsplit
  simp only [inRegWindow, Bool.and_eq_true, decide_eq_true_eq, BitVec.le_def, BitVec.toNat_ofNat]
  omega

/-- Settles O3: each row's words reach it, since its pattern differs from every earlier row's of its width. -/
theorem tableWordsDecode : Obligations.TableWordsDecode := by
  refine ⟨fun a h => ?_, fun a h => ?_, fun a h => ?_, fun a h => ?_, fun a h => ?_, fun a h => ?_, fun a h => ?_,
    fun a h => ?_, fun v h => ?_, rfl, rfl, fun o h => ?_, fun o h => ?_⟩
  · simpa using decodeTableWord_of_row 0 (decodeFields_word24 a.isLt) rfl rfl rfl (toNat_and_eq h)
      (by simp [Instr.wf, inRamWindow, h])
  · simpa using decodeTableWord_of_row 2 (decodeFields_word24 a.isLt) rfl rfl rfl (toNat_and_eq h)
      (by simp [Instr.wf, inCoWindow, h])
  · simpa using decodeTableWord_of_row 4 (decodeFields_word24 a.isLt) rfl rfl rfl (toNat_and_eq h)
      (by simp [Instr.wf, inIoWindow, h])
  · simpa using decodeTableWord_of_row 6 (decodeFields_word24 a.isLt) rfl rfl rfl (toNat_and_eq h)
      (by simp [Instr.wf, inVdpWindow, h])
  · simpa using decodeTableWord_of_row 12 (decodeFields_word24 a.isLt) rfl rfl rfl (toNat_and_eq h)
      (by simpa [Instr.wf] using inRegWindow_of_match h (by decide) (by decide))
  · simpa using decodeTableWord_of_row 13 (decodeFields_word24 a.isLt) rfl rfl rfl (toNat_and_eq h)
      (by simpa [Instr.wf] using inRegWindow_of_match h (by decide) (by decide))
  · simpa using decodeTableWord_of_row 14 (decodeFields_word24 a.isLt) rfl rfl rfl (toNat_and_eq h)
      (by simpa [Instr.wf] using inRegWindow_of_match h (by decide) (by decide))
  · simpa using decodeTableWord_of_row 15 (decodeFields_word24 a.isLt) rfl rfl rfl (toNat_and_eq h)
      (by simpa [Instr.wf] using inRegWindow_of_match h (by decide) (by decide))
  · simpa using decodeTableWord_of_row 17 (decodeFields_word16 v.isLt) rfl rfl rfl (toNat_and_eq h)
      (by simp [Instr.wf, valAsserts, h])
  · have hwf : ∀ o : Byte, o &&& 0x1C#8 = 0x00#8 →
        (inVdpWindow (0xC00000#24 + o.setWidth 24) && offIsData (0xC00000#24 + o.setWidth 24)) = true := by decide
    simpa using decodeTableWord_of_row 8 (decodeFields_word8 o.isLt) rfl rfl rfl (toNat_and_eq h)
      (by simpa [Instr.wf] using hwf o h)
  · have hwf : ∀ o : Byte, o &&& 0x1C#8 = 0x04#8 →
        (inVdpWindow (0xC00000#24 + o.setWidth 24) && offIsControl (0xC00000#24 + o.setWidth 24)) = true := by decide
    simpa using decodeTableWord_of_row 9 (decodeFields_word8 o.isLt) rfl rfl rfl (toNat_and_eq h)
      (by simpa [Instr.wf] using hwf o h)

end Sys2Proof
end

section
/-! PROOFS. The region map and the sub-decodes as ranges (R73, R74, R75, R78). -/

namespace Sys2Proof.Machine

/-! ## The region map -/

theorem inOverlay_iff {cfg : BusConfig} {a : Addr} :
    cfg.inOverlay a = true ↔ ∃ o, cfg.overlay = some o ∧ o.lo ≤ a ∧ a ≤ o.hi := by
  unfold BusConfig.inOverlay
  cases cfg.overlay <;> simp

/-- The overlay lies below the co-CPU window, so the override of R73 takes only addresses of the cartridge space. -/
theorem lt_of_inOverlay {cfg : BusConfig} {a : Addr} (hok : cfg.ok = true) (h : cfg.inOverlay a = true) : a < 0xA00000#24 := by
  obtain ⟨o, ho, -, hhi⟩ := inOverlay_iff.mp h
  exact Nat.lt_of_le_of_lt hhi (BusConfig.overlay_bounds hok ho).2

/-- Settles O4: the ROM and the overlay lie below 0xA00000 and the fixed windows are disjoint, so the order of the tests does not
matter. -/
theorem regionMap : Obligations.RegionMap := by
  intro cfg v a hok
  have hrom := BusConfig.romEnd_lt hok
  have htop : a.toNat < 2 ^ 24 := a.isLt
  simp only [← inOverlay_iff, regionOf]
  by_cases hover : v = .battery ∧ cfg.inOverlay a = true
  · have hlow := lt_of_inOverlay hok hover.2
    simp only [hover, and_self, if_true, not_true_eq_false, and_false, or_true]
    simp only [BitVec.le_def, BitVec.lt_def, BitVec.toNat_ofNat, Nat.reducePow, Nat.reduceMod, ite_self] at hlow ⊢
    simp only [reduceCtorEq, false_iff, true_and]
    omega
  · simp only [hover, if_false, not_false_eq_true, and_true, or_false]
    simp only [BitVec.le_def, BitVec.lt_def, BitVec.toNat_ofNat, Nat.reducePow, Nat.reduceMod] at hrom htop ⊢
    split_ifs <;> simp only [false_iff, true_iff] <;> omega

/-! ## The REG sub-decode -/

/-- The addresses of the three registers tested first, and of the lock register, are four addresses. -/
theorem regAddrs_distinct {cfg : BusConfig} (hok : cfg.ok = true) :
    cfg.addrMemmode ≠ cfg.addrBusreq ∧ cfg.addrMemmode ≠ cfg.addrCoreset ∧ cfg.addrBusreq ≠ cfg.addrCoreset
    ∧ ∀ x, cfg.addrTmss = some x → cfg.addrMemmode ≠ x ∧ cfg.addrBusreq ≠ x ∧ cfg.addrCoreset ≠ x := by
  have hnodup := BusConfig.regAddrs_nodup hok
  unfold BusConfig.regAddrs at hnodup
  cases htmss : cfg.addrTmss <;>
    simp only [htmss, Option.toList, List.cons_append, List.nil_append, List.nodup_cons, List.mem_cons, List.not_mem_nil,
      or_false, not_or] at hnodup
  · exact ⟨hnodup.1.1, hnodup.1.2, hnodup.2.1, by simp⟩
  · refine ⟨hnodup.1.1, hnodup.1.2.1, hnodup.2.1.1, ?_⟩
    rintro x ⟨⟩
    exact ⟨hnodup.1.2.2, hnodup.2.1.2, hnodup.2.2.1⟩

/-- The register at an address, by the tests of R74 with the base address named. -/
theorem regSelOf_sets {cfg : BusConfig} (hok : cfg.ok = true) (a : Addr) :
    (regSelOf cfg a = .memmode ↔ regBase a = cfg.addrMemmode)
    ∧ (regSelOf cfg a = .busreq ↔ regBase a = cfg.addrBusreq)
    ∧ (regSelOf cfg a = .coreset ↔ regBase a = cfg.addrCoreset)
    ∧ (regBase a ∉ [cfg.addrMemmode, cfg.addrBusreq, cfg.addrCoreset] →
        (regSelOf cfg a = .banksel ↔ cfg.bankselLo ≤ a ∧ a ≤ cfg.bankselHi))
    ∧ (regSelOf cfg a = .tmss ↔ some (regBase a) = cfg.addrTmss ∧ ¬ (cfg.bankselLo ≤ a ∧ a ≤ cfg.bankselHi))
    ∧ (regSelOf cfg a = .other ↔ regBase a ∉ cfg.regAddrs ∧ ¬ (cfg.bankselLo ≤ a ∧ a ≤ cfg.bankselHi)) := by
  obtain ⟨hmb, hmc, hbc, htmss⟩ := regAddrs_distinct hok
  unfold regSelOf BusConfig.regAddrs
  split_ifs <;> grind

/-! ## The port offsets and the obligation -/

/-- The port of each offset (R75). -/
theorem vdpOffsetOf_sets (a : Addr) :
    (vdpOffsetOf a = .data ↔ portOffset a ≤ 0x03#24)
    ∧ (vdpOffsetOf a = .control ↔ 0x04#24 ≤ portOffset a ∧ portOffset a ≤ 0x07#24)
    ∧ (vdpOffsetOf a = .hv ↔ 0x08#24 ≤ portOffset a ∧ portOffset a ≤ 0x0E#24)
    ∧ (vdpOffsetOf a = .unexpected ↔ 0x0F#24 ≤ portOffset a) := by
  unfold vdpOffsetOf
  simp only [BitVec.le_def, BitVec.lt_def, BitVec.toNat_ofNat, Nat.reducePow, Nat.reduceMod]
  split_ifs <;> simp only [false_iff, true_iff] <;> omega

/-- Settles O5: the registers by their distinct base addresses, the ports by their offsets, the sixteen line tuples by evaluation. -/
theorem subDecodes : Obligations.SubDecodes := by
  refine ⟨fun cfg a hok => regSelOf_sets hok a, fun a => vdpOffsetOf_sets a, ?_⟩
  decide

end Sys2Proof.Machine
end

section
/-! PROOFS. The serial EEPROM (R172, R190 to R205): each row of the line format is the sample its tuple makes, what one sample does in
every state of the protocol, and a byte over nine cycles of samples. -/

namespace Sys2Proof.Machine

/-! ## The rows of the line format are samples (R78, R191) -/

@[simp] theorem lineEventOf_rise (pd d : Bool) : lineEventOf false pd true d = .rise := by cases pd <;> cases d <;> rfl

@[simp] theorem lineEventOf_fall (pd d : Bool) : lineEventOf true pd false d = .fall := by cases pd <;> cases d <;> rfl

@[simp] theorem lineEventOf_low (pd d : Bool) : lineEventOf false pd false d = .none := by cases pd <;> cases d <;> rfl

@[simp] theorem lineEventOf_steady (d : Bool) : lineEventOf true d true d = .none := by cases d <;> rfl

theorem State.eepStep_of_lines {s : State} {pc pd : Bool} (h : s.LinesAre pc pd) (c d : Bool) :
    s.eepStep c d = (s.sampleLines c d).lineEvent (lineEventOf pc pd c d) := by
  obtain ⟨rfl, rfl⟩ := h
  rfl

/-- A row of the line format answers only on its own lines, in its own state, with its own effect. -/
theorem State.lineRow_next {s t : State} {pc pd c d inState : Bool} {effect : State → State} :
    s.lineRow pc pd c d inState effect = .next t ↔
      s.cfg.hasEeprom = true ∧ s.LinesAre pc pd ∧ inState = true ∧ effect (s.sampleLines c d) = t := by
  unfold State.lineRow State.LinesAre
  split
  · simp [*, whenSelected_next, and_assoc]
  · simp [*]

/-- An effect that is its tuple's event makes the row a sample. -/
theorem State.lineRow_sample {s t : State} {pc pd c d inState : Bool} {effect : State → State}
    (heffect : inState = true → effect (s.sampleLines c d) = (s.sampleLines c d).lineEvent (lineEventOf pc pd c d))
    (h : s.lineRow pc pd c d inState effect = .next t) : t = s.eepStep c d := by
  obtain ⟨-, hlines, hstate, rfl⟩ := State.lineRow_next.mp h
  rw [heffect hstate, State.eepStep_of_lines hlines]

theorem exec_eepStep_of_device {s : State} (hdev : s.cfg.hasEeprom = true) (c d : Bool) :
    exec (.eepStep c d) s = .next (s.eepStep c d) :=
  if_pos hdev

/-- On its lines and in its state a row whose effect is its tuple's event completes as the sample does. -/
theorem State.lineRow_same {s : State} (hdev : s.cfg.hasEeprom = true) {row : Instr} {pc pd c d inState : Bool}
    (effect : State → State) (hrow : exec row s = s.lineRow pc pd c d inState effect) (hstate : inState = true)
    (heffect : effect (s.sampleLines c d) = (s.sampleLines c d).lineEvent (lineEventOf pc pd c d))
    (hlines : s.LinesAre pc pd) : ∃ t, exec row s = .next t ∧ exec (.eepStep c d) s = .next t := by
  refine ⟨s.eepStep c d, ?_, exec_eepStep_of_device hdev c d⟩
  rw [hrow, State.eepStep_of_lines hlines, ← heffect]
  exact State.lineRow_next.mpr ⟨hdev, hlines, hstate, rfl⟩

/-- Settles O38: on its lines and in its state a row's effect is the event of its tuple. -/
theorem lineRowsAreSamples : Obligations.LineRowsAreSamples := by
  intro s pd d hdev
  refine ⟨State.lineRow_same hdev State.lineStart rfl rfl rfl, State.lineRow_same hdev State.lineStop rfl rfl rfl,
    fun hl hs => State.lineRow_same hdev id rfl (beq_iff_eq.mpr hs) ?_ hl,
    fun hl hs => State.lineRow_same hdev id rfl (beq_iff_eq.mpr hs) ?_ hl,
    fun hl hs => State.lineRow_same hdev State.gwaRise rfl (beq_iff_eq.mpr hs) ?_ hl,
    fun hl hs => State.lineRow_same hdev State.gwaFall rfl (beq_iff_eq.mpr hs) ?_ hl,
    fun hl hs => State.lineRow_same hdev State.writeRise rfl (beq_iff_eq.mpr hs) ?_ hl,
    fun hl hs => State.lineRow_same hdev State.writeFall rfl (beq_iff_eq.mpr hs) ?_ hl,
    fun hl hs => State.lineRow_same hdev State.readRise rfl (beq_iff_eq.mpr hs) ?_ hl,
    fun hl hs => State.lineRow_same hdev State.readFall rfl (beq_iff_eq.mpr hs) ?_ hl,
    fun hl hs => State.lineRow_same hdev id rfl (beq_iff_eq.mpr hs) ?_ hl,
    fun hl hs => State.lineRow_same hdev id rfl (beq_iff_eq.mpr hs) ?_ hl,
    State.lineRow_same hdev id rfl rfl (by rw [lineEventOf_low]; rfl), State.lineRow_same hdev id rfl rfl rfl,
    State.lineRow_same hdev id rfl rfl rfl⟩
  all_goals simp [State.lineEvent, hs]

/-! ## One sample (R191 to R204) -/

theorem setAddressBit_getLsbD (ar : BitVec 7) (bc k : Nat) (d : Bool) (hbc : bc ≤ 7) (hk : k < 7) :
    (setAddressBit ar bc d).getLsbD k = if bc = 7 - k then d else ar.getLsbD k := by
  have hiff : bc = 7 - k ↔ k = 7 - bc := by omega
  unfold setAddressBit
  cases d <;> simp [hk, hiff] <;> grind

theorem shiftIn_eq_ofNat : ∀ (wb : Byte) (d : Bool), shiftIn wb d = BitVec.ofNat 8 (2 * wb.toNat + if d = true then 1 else 0) := by
  decide

@[simp] theorem State.sampleLines_writeBuffer (s : State) (c d : Bool) :
    (s.sampleLines c d).eeprom.writeBuffer = s.eeprom.writeBuffer := rfl

@[simp] theorem State.sampleLines_addressRegister (s : State) (c d : Bool) :
    (s.sampleLines c d).eeprom.addressRegister = s.eeprom.addressRegister := rfl

@[simp] theorem State.sampleLines_readWriteFlag (s : State) (c d : Bool) :
    (s.sampleLines c d).eeprom.readWriteFlag = s.eeprom.readWriteFlag := rfl

/-- The address frame counts to nine, its first seven bits go to the word address and the eighth is the direction (R195). -/
theorem State.gwaRise_eeprom (s : State) : s.gwaRise.eeprom = { s.eeprom with
    bitCounter := if s.eeprom.bitCounter < 9 then s.eeprom.bitCounter + 1 else s.eeprom.bitCounter
    addressRegister :=
      if s.eeprom.bitCounter < 7 then setAddressBit s.eeprom.addressRegister (s.eeprom.bitCounter + 1) s.eeprom.dataLine
      else s.eeprom.addressRegister
    readWriteFlag := if s.eeprom.bitCounter = 7 then s.eeprom.dataLine else s.eeprom.readWriteFlag } := by
  unfold State.gwaRise
  dsimp only
  split_ifs <;> simp_all
  all_goals omega

/-- A written frame counts to nine and shifts its first eight bits in (R197). -/
theorem State.writeRise_eeprom (s : State) : s.writeRise.eeprom = { s.eeprom with
    bitCounter := if s.eeprom.bitCounter < 9 then s.eeprom.bitCounter + 1 else s.eeprom.bitCounter
    writeBuffer := if s.eeprom.bitCounter < 8 then shiftIn s.eeprom.writeBuffer s.eeprom.dataLine else s.eeprom.writeBuffer } := by
  unfold State.writeRise
  dsimp only
  split_ifs <;> simp_all
  all_goals omega

/-- A read frame counts to nine (R199). -/
theorem State.readRise_eeprom (s : State) : s.readRise.eeprom = { s.eeprom with
    bitCounter := if s.eeprom.bitCounter < 9 then s.eeprom.bitCounter + 1 else s.eeprom.bitCounter } := by
  unfold State.readRise
  dsimp only
  split_ifs <;> simp_all

/-- A RISE (R194, R195, R197, R199, R201). -/
theorem EepAfter_rise {s : State} (hc : s.eeprom.clockLine = false) (d : Bool) :
    EepAfter s.cfg.eepromSize s.eeprom true d (s.eepStep true d).eeprom := by
  rw [State.eepStep_of_lines ⟨hc, rfl⟩, lineEventOf_rise]
  unfold EepAfter State.lineEvent
  cases hs : s.eeprom.state
  · simp [hs, hc]
  · simp [hs, hc, State.gwaRise_eeprom]
    refine ⟨rfl, fun k hk => ?_, rfl⟩
    by_cases h7 : s.eeprom.bitCounter < 7
    · simp [h7, setAddressBit_getLsbD _ _ _ _ h7 hk]
    · have hlate : s.eeprom.bitCounter + 1 ≠ 7 - k := by omega
      simp [h7, hlate]
  · simp [hs, hc, State.writeRise_eeprom, shiftIn_eq_ofNat]
    rfl
  · simp [hs, hc, State.readRise_eeprom]
    rfl
  · simp [hs, hc]

/-- A FALL (R194, R196, R198, R200, R201). -/
theorem EepAfter_fall {s : State} (hc : s.eeprom.clockLine = true) (d : Bool) :
    EepAfter s.cfg.eepromSize s.eeprom false d (s.eepStep false d).eeprom := by
  rw [State.eepStep_of_lines ⟨hc, rfl⟩, lineEventOf_fall]
  unfold EepAfter State.lineEvent
  cases hs : s.eeprom.state
  · simp [hs, hc]
  · by_cases h9 : s.eeprom.bitCounter = 9 <;> cases hr : s.eeprom.readWriteFlag <;> simp [hs, hc, h9, hr, State.gwaFall]
  · by_cases h9 : s.eeprom.bitCounter = 9 <;> simp [hs, hc, h9, State.writeFall, State.eepNextAddress]
  · by_cases h9 : s.eeprom.bitCounter = 9 <;> cases hd : s.eeprom.dataLine <;>
      simp [hs, hc, h9, hd, State.readFall, State.eepNextAddress]
  · simp [hs, hc]

/-- No clock edge: START, STOP or nothing (R192, R193, R203). -/
theorem EepAfter_steady {s : State} {c : Bool} (hc : s.eeprom.clockLine = c) (d : Bool) :
    EepAfter s.cfg.eepromSize s.eeprom c d (s.eepStep c d).eeprom := by
  rw [State.eepStep_of_lines ⟨hc, rfl⟩]
  unfold EepAfter
  cases c
  · simp [hc, State.lineEvent]
  · cases hd : s.eeprom.dataLine <;> cases d <;>
      simp [hc, hd, State.lineEvent, lineEventOf, State.lineStart, State.lineStop]

/-- Settles O39: the store by `eepByte_eepStep`, the fields by the clock edge of the sample. -/
theorem eepStepTable : Obligations.EepStepTable := by
  intro s c d hdev
  refine ⟨s.eepStep c d, exec_eepStep_of_device hdev c d, State.of_offEeprom (State.eepStep_frame s c d),
    fun i => State.eepByte_eepStep s c d i, ?_⟩
  cases hc : s.eeprom.clockLine <;> cases c
  · exact EepAfter_steady hc d
  · exact EepAfter_rise hc d
  · exact EepAfter_fall hc d
  · exact EepAfter_steady hc d

/-! ## The output and the device (R172, R202) -/

/-- In a data cycle of READ the output is the cycle's bit of the addressed byte. -/
theorem State.eepOut_of_dataCycle {s : State} (hs : s.eeprom.state = .read) (hlo : 1 ≤ s.eeprom.bitCounter)
    (hhi : s.eeprom.bitCounter ≤ 8) : s.eepOut = (s.eepByte s.eepIndex).getLsbD (8 - s.eeprom.bitCounter) :=
  if_pos ⟨hs, hlo, hhi⟩

/-- Outside the data cycles of READ and the acknowledge cycle the output is the data line. -/
theorem State.eepOut_of_line {s : State} (hdata : ¬ (s.eeprom.state = .read ∧ 1 ≤ s.eeprom.bitCounter ∧ s.eeprom.bitCounter ≤ 8))
    (hack : s.eeprom.bitCounter ≠ 9) : s.eepOut = s.eeprom.dataLine := by
  simp only [State.eepOut, if_neg hdata, hack, and_false, false_and, if_false]

theorem exec_eepOut_of_device {s : State} (hdev : s.cfg.hasEeprom = true) :
    exec .eepOut s = .next (s.addReply (.line s.eepOut)) :=
  if_pos hdev

/-- Settles O40: the tests of the output, state by state. -/
theorem eepOutput : Obligations.EepOutput := by
  intro s hdev
  dsimp only
  refine ⟨s.eepOut, exec_eepOut_of_device hdev, fun hs hlo hhi => State.eepOut_of_dataCycle hs hlo hhi, ?_, ?_, ?_, ?_, ?_⟩
  · rintro h9 (hs | hs) <;> simp [State.eepOut, h9, hs]
  · intro h9 hs
    simp [State.eepOut, h9, hs]
  · rintro (hs | hs) <;> simp [State.eepOut, hs]
  · rintro h
    exact State.eepOut_of_line (by omega) (by omega)
  · rintro hs h9
    exact State.eepOut_of_line (fun ⟨hr, _⟩ => by simp [hr] at hs) h9

theorem Datum.lineClock_byte (b : Byte) : (Datum.byte b).lineClock = b.getLsbD 1 := by
  simp [Datum.lineClock, Datum.zext16]

theorem Datum.lineData_byte (b : Byte) : (Datum.byte b).lineData = b.getLsbD 0 := by
  simp [Datum.lineData, Datum.zext16]

/-- Settles O35: a device write is the sample of the two low bits, and a device read is the output in bit 0. -/
theorem eepromDevice : Obligations.EepromDevice := by
  intro s a
  refine ⟨fun hdev => ⟨fun b => ?_, fun w => ?_, s.eepOut, exec_eepOut_of_device hdev, ?_, ?_⟩, fun hdev acc => ?_⟩
  · rw [← Datum.lineClock_byte, ← Datum.lineData_byte]
    exact ⟨_, if_pos hdev, exec_eepStep_of_device hdev _ _⟩
  · exact ⟨_, if_pos hdev, exec_eepStep_of_device hdev _ _⟩
  · exact if_pos hdev
  · exact if_pos hdev
  · exact if_neg (ne_true_of_eq_false hdev)

/-! ## A byte over nine cycles (R197 to R199, R202) -/

theorem execAll_append_of_next {xs : List Instr} {s t : State} (h : execAll xs s = .next t) (ys : List Instr) :
    execAll (xs ++ ys) s = execAll ys t := by
  induction xs generalizing s with
  | nil => cases h; rfl
  | cons i xs ih =>
    simp only [List.cons_append, execAll] at h ⊢
    cases hi : exec i s <;> simp only [hi] at h ⊢
    · exact ih h
    · cases h
    · cases h

theorem State.eepStep_low {s : State} (hc : s.eeprom.clockLine = false) (d : Bool) : s.eepStep false d = s.sampleLines false d := by
  rw [State.eepStep_of_lines ⟨hc, rfl⟩, lineEventOf_low]
  rfl

/-- The state after one data bit of WRITE (R197): the cycle counted, the bit shifted in. -/
def State.bitWritten (s : State) (d : Bool) : State :=
  { s with eeprom :=
      { s.eeprom with
        clockLine := false
        dataLine := d
        previousClockLine := true
        previousDataLine := d
        bitCounter := s.eeprom.bitCounter + 1
        writeBuffer := shiftIn s.eeprom.writeBuffer d } }

/-- The state after the acknowledge cycle of WRITE (R198): the byte stored, the address advanced. -/
def State.byteStored (s : State) : State :=
  { s with
    eep := s.eep.write s.eepIndex s.eeprom.writeBuffer
    eeprom :=
      { s.eeprom with
        clockLine := false
        dataLine := false
        previousClockLine := true
        previousDataLine := false
        bitCounter := 0
        writeBuffer := 0#8
        addressRegister := s.eepNextAddress } }

theorem State.writeRise_of_data {s : State} (hb : s.eeprom.bitCounter < 8) : s.writeRise = { s with eeprom :=
    { s.eeprom with
      bitCounter := s.eeprom.bitCounter + 1
      writeBuffer := shiftIn s.eeprom.writeBuffer s.eeprom.dataLine } } := by
  rw [State.writeRise, if_pos (by omega), if_pos (by omega)]

theorem State.writeRise_of_ack {s : State} (hb : s.eeprom.bitCounter = 8) :
    s.writeRise = { s with eeprom := { s.eeprom with bitCounter := 9 } } := by
  rw [State.writeRise, if_pos (by omega), if_neg (by omega), hb]

theorem State.eepStep_rise {s : State} (hc : s.eeprom.clockLine = false) (d : Bool) :
    s.eepStep true d = (s.sampleLines true d).lineEvent .rise := by
  rw [State.eepStep_of_lines ⟨hc, rfl⟩, lineEventOf_rise]

theorem State.eepStep_fall {s : State} (hc : s.eeprom.clockLine = true) (d : Bool) :
    s.eepStep false d = (s.sampleLines false d).lineEvent .fall := by
  rw [State.eepStep_of_lines ⟨hc, rfl⟩, lineEventOf_fall]

/-- A cycle is three samples of a device that is there. -/
theorem execAll_lineBit {s : State} (hdev : s.cfg.hasEeprom = true) (d : Bool) :
    execAll (lineBit d) s = .next (((s.eepStep false d).eepStep true d).eepStep false d) := by
  have hkeep : ∀ (u : State) (c : Bool), u.cfg.hasEeprom = true → (u.eepStep c d).cfg.hasEeprom = true := fun u c hu => by
    rw [State.of_offEeprom (State.eepStep_frame u c d)]; exact hu
  have hlow := hkeep s false hdev
  simp only [lineBit, execAll, exec_eepStep_of_device hdev, exec_eepStep_of_device hlow,
    exec_eepStep_of_device (hkeep _ true hlow)]

theorem execAll_lineBit_data {s : State} (hdev : s.cfg.hasEeprom = true) (hs : s.eeprom.state = .write)
    (hc : s.eeprom.clockLine = false) (hb : s.eeprom.bitCounter < 8) (d : Bool) :
    execAll (lineBit d) s = .next (s.bitWritten d) := by
  have hrise : (s.sampleLines false d).eepStep true d = ((s.sampleLines false d).sampleLines true d).writeRise := by
    rw [State.eepStep_rise rfl]
    simp [State.lineEvent, hs]
  rw [execAll_lineBit hdev, State.eepStep_low hc, hrise, State.writeRise_of_data (s := (s.sampleLines false d).sampleLines true d) hb,
    State.eepStep_fall rfl]
  have hfall : s.eeprom.bitCounter + 1 ≠ 9 := by omega
  simp [State.lineEvent, State.sampleLines, State.writeFall, State.bitWritten, hs, hfall]

theorem execAll_lineBit_ack {s : State} (hdev : s.cfg.hasEeprom = true) (hs : s.eeprom.state = .write)
    (hc : s.eeprom.clockLine = false) (hb : s.eeprom.bitCounter = 8) : execAll (lineBit false) s = .next s.byteStored := by
  have hrise : (s.sampleLines false false).eepStep true false
      = ((s.sampleLines false false).sampleLines true false).writeRise := by
    rw [State.eepStep_rise rfl]
    simp [State.lineEvent, hs]
  rw [execAll_lineBit hdev, State.eepStep_low hc, hrise,
    State.writeRise_of_ack (s := (s.sampleLines false false).sampleLines true false) hb, State.eepStep_fall rfl]
  simp [State.lineEvent, State.sampleLines, State.writeFall, State.byteStored, State.eepIndex, State.eepNextAddress, hs]

/-- Data bits one after the other, as far as the frame goes. -/
theorem execAll_lineBits (ds : List Bool) {s : State} (hdev : s.cfg.hasEeprom = true) (hs : s.eeprom.state = .write)
    (hc : s.eeprom.clockLine = false) (hb : s.eeprom.bitCounter + ds.length ≤ 8) :
    execAll (ds.map lineBit).flatten s = .next (ds.foldl State.bitWritten s) := by
  induction ds generalizing s with
  | nil => rfl
  | cons d ds ih =>
    rw [List.length_cons] at hb
    have hnext := execAll_lineBit_data hdev hs hc (by omega) d
    rw [List.map_cons, List.flatten_cons, execAll_append_of_next hnext, List.foldl_cons]
    exact ih hdev hs rfl (by simp only [State.bitWritten]; omega)

theorem shiftIn_getLsbD (wb : Byte) (d : Bool) (k : Nat) (hk : k < 8) :
    (shiftIn wb d).getLsbD k = if k = 0 then d else wb.getLsbD (k - 1) := by
  cases k <;> cases d <;> simp [shiftIn]
  all_goals omega

/-- Eight bits most significant first fill the buffer, whatever it held. -/
theorem foldl_shiftIn_bits (b wb : Byte) : ([7, 6, 5, 4, 3, 2, 1, 0].map b.getLsbD).foldl shiftIn wb = b := by
  apply BitVec.eq_of_getLsbD_eq
  intro i hi
  interval_cases i <;>
    simp only [List.map_cons, List.map_nil, List.foldl_cons, List.foldl_nil, shiftIn_getLsbD, Nat.reduceLT, reduceIte,
      OfNat.ofNat_ne_zero, Nat.reduceSub, one_ne_zero]

/-- What data bits leave: the bits shifted in, the count, and everything outside the frame. -/
theorem foldl_bitWritten (ds : List Bool) {s : State} (hc : s.eeprom.clockLine = false) :
    (ds.foldl State.bitWritten s).eeprom.writeBuffer = ds.foldl shiftIn s.eeprom.writeBuffer
    ∧ (ds.foldl State.bitWritten s).eeprom.bitCounter = s.eeprom.bitCounter + ds.length
    ∧ (ds.foldl State.bitWritten s).eeprom.state = s.eeprom.state
    ∧ (ds.foldl State.bitWritten s).eeprom.clockLine = false
    ∧ (ds.foldl State.bitWritten s).eeprom.addressRegister = s.eeprom.addressRegister
    ∧ ds.foldl State.bitWritten s = { s with eeprom := (ds.foldl State.bitWritten s).eeprom } := by
  induction ds generalizing s with
  | nil => exact ⟨rfl, rfl, rfl, hc, rfl, rfl⟩
  | cons d ds ih =>
    obtain ⟨hwb, hbc, hst, hclk, har, hframe⟩ := ih (s := s.bitWritten d) rfl
    refine ⟨hwb, ?_, hst, hclk, har, hframe⟩
    refine hbc.trans ?_
    simp only [State.bitWritten, List.length_cons]
    omega

/-- Settles O41: eight data cycles fill the buffer and the acknowledge cycle stores it. -/
theorem eepromStoresTheDrivenByte : Obligations.EepromStoresTheDrivenByte := by
  intro s b hdev hs hbc hc
  have hbits := execAll_lineBits ([7, 6, 5, 4, 3, 2, 1, 0].map b.getLsbD) hdev hs hc (by simp [hbc])
  obtain ⟨hwb, hcount, hst, hclk, har, hframe⟩ := foldl_bitWritten ([7, 6, 5, 4, 3, 2, 1, 0].map b.getLsbD) hc
  rw [foldl_shiftIn_bits] at hwb
  generalize ([7, 6, 5, 4, 3, 2, 1, 0].map b.getLsbD).foldl State.bitWritten s = u at hbits hwb hcount hst hclk har hframe
  have hcfg : u.cfg = s.cfg := by rw [hframe]
  have hack := execAll_lineBit_ack (hcfg ▸ hdev) (hst.trans hs) hclk (by simpa [hbc] using hcount)
  have hindex : u.eepIndex = s.eeprom.addressRegister.toNat % s.cfg.eepromSize := by rw [State.eepIndex, har, hcfg]
  refine ⟨u.byteStored, ?_, ?_, fun i => ?_, hst.trans hs, rfl, rfl, ?_⟩
  · rw [List.map_map] at hbits
    rw [lineByte, ← hack]
    exact execAll_append_of_next hbits _
  · rw [State.byteStored, hframe]
  · refine (State.eepByte_write u _ i _).trans ?_
    rw [hindex, hwb, show u.eepByte i = s.eepByte i by rw [hframe]; rfl]
  · rw [State.byteStored, State.eepNextAddress, har, hcfg]

/-- The cycle number while the clock of a read cycle is high. -/
def State.readHigh (s : State) : State :=
  { s with eeprom :=
      { s.eeprom with
        clockLine := true
        dataLine := false
        previousClockLine := false
        previousDataLine := false
        bitCounter := s.eeprom.bitCounter + 1 } }

/-- The state after one cycle in which the master reads (R199): the cycle counted, the bit returned. -/
def State.bitRead (s : State) : State :=
  { s with
    eeprom :=
      { s.eeprom with
        clockLine := false
        dataLine := false
        previousClockLine := true
        previousDataLine := false
        bitCounter := s.eeprom.bitCounter + 1 }
    replies := s.replies ++ [.line ((s.eepByte s.eepIndex).getLsbD (7 - s.eeprom.bitCounter))] }

theorem State.eepStep_readHigh {s : State} (hs : s.eeprom.state = .read) (hb : s.eeprom.bitCounter < 8) :
    (s.sampleLines false false).eepStep true false = s.readHigh := by
  have hcount : s.eeprom.bitCounter < 9 := by omega
  rw [State.eepStep_rise rfl]
  simp [State.lineEvent, State.sampleLines, State.readRise, State.readHigh, hs, hcount]

theorem execAll_lineRead_data {s : State} (hdev : s.cfg.hasEeprom = true) (hs : s.eeprom.state = .read)
    (hc : s.eeprom.clockLine = false) (hb : s.eeprom.bitCounter < 8) : execAll lineRead s = .next s.bitRead := by
  have hlow : exec (.eepStep false false) s = .next (s.sampleLines false false) := by
    rw [exec_eepStep_of_device hdev, State.eepStep_low hc]
  have hhigh : exec (.eepStep true false) (s.sampleLines false false) = .next s.readHigh := by
    rw [exec_eepStep_of_device (s := s.sampleLines false false) hdev, State.eepStep_readHigh hs hb]
  have hout : exec .eepOut s.readHigh
      = .next (s.readHigh.addReply (.line ((s.eepByte s.eepIndex).getLsbD (7 - s.eeprom.bitCounter)))) := by
    rw [exec_eepOut_of_device (s := s.readHigh) hdev, State.eepOut_of_dataCycle (s := s.readHigh) hs (Nat.le_add_left _ _) hb]
    simp only [State.readHigh, Nat.reduceSubDiff]
    rfl
  have hfall : exec (.eepStep false false) (s.readHigh.addReply (.line ((s.eepByte s.eepIndex).getLsbD (7 - s.eeprom.bitCounter))))
      = .next s.bitRead := by
    have hlast : s.eeprom.bitCounter + 1 ≠ 9 := by omega
    rw [exec_eepStep_of_device (s := s.readHigh.addReply _) hdev, State.eepStep_fall rfl]
    simp [State.lineEvent, State.sampleLines, State.readFall, State.readHigh, State.bitRead, State.addReply, hs, hlast]
  simp only [lineRead, execAll, hlow, hhigh, hout, hfall]

/-- Read cycles one after the other: the bits from the cycle's place downwards. -/
theorem execAll_lineReads (n : Nat) {s : State} (hdev : s.cfg.hasEeprom = true) (hs : s.eeprom.state = .read)
    (hc : s.eeprom.clockLine = false) (hb : s.eeprom.bitCounter + n ≤ 8) :
    ∃ t, execAll (List.replicate n lineRead).flatten s = .next t
      ∧ t = { s with eeprom := t.eeprom, replies := t.replies }
      ∧ t.replies = s.replies
          ++ (List.range n).map (fun j => .line ((s.eepByte s.eepIndex).getLsbD (7 - (s.eeprom.bitCounter + j))))
      ∧ t.eeprom.state = .read ∧ t.eeprom.bitCounter = s.eeprom.bitCounter + n
      ∧ t.eeprom.addressRegister = s.eeprom.addressRegister := by
  induction n generalizing s with
  | zero => exact ⟨s, rfl, rfl, by simp, hs, rfl, rfl⟩
  | succ n ih =>
    obtain ⟨t, ht, hframe, hreplies, hst, hbc, har⟩ := ih (s := s.bitRead) hdev hs rfl (by simp only [State.bitRead]; omega)
    refine ⟨t, ?_, hframe, ?_, hst, ?_, har⟩
    · rw [List.replicate_succ, List.flatten_cons, execAll_append_of_next (execAll_lineRead_data hdev hs hc (by omega)), ht]
    · have hbyte : s.bitRead.eepByte s.bitRead.eepIndex = s.eepByte s.eepIndex := rfl
      rw [hreplies, hbyte, List.range_succ_eq_map]
      simp [State.bitRead, Function.comp_def, Nat.add_assoc, Nat.add_comm 1]
    · rw [hbc]
      simp only [State.bitRead]
      omega

/-- Settles O42: eight read cycles from the start of a frame. -/
theorem eepromReturnsTheAddressedByte : Obligations.EepromReturnsTheAddressedByte := by
  intro s hdev hs hbc hc
  obtain ⟨t, ht, hframe, hreplies, hst, hcount, har⟩ := execAll_lineReads 8 hdev hs hc (by simp [hbc])
  refine ⟨t, ht, hframe, ?_, hst, by simpa [hbc] using hcount, har⟩
  rw [hreplies, hbc]
  rfl

end Sys2Proof.Machine
end

section
/-! PROOFS. What an operation can do, said once: `exec_effect` sorts the hundred rows into twenty-eight effects, by the shared operation
each row runs. The statements over every operation (R11, R14, R174, R231, R232, R289) are case analyses of it. -/

namespace Sys2Proof.Machine

/-! ## Quiet operations -/

/-- Everything but what a read, a charge or a report can touch. -/
def State.offQuiet (s : State) : State :=
  { s with
    penalty := ⟨0, 0⟩
    vdpVLine := false
    vdpHLine := false
    mainCpuFrozen := false
    log := []
    inputs := Inputs.empty
    draws := 0
    closed := false
    calls := []
    replies := [] }

/-- Only reports, charges and the log changed, and the log only grew. -/
def State.Quiet (s t : State) : Prop := t.offQuiet = s.offQuiet ∧ s.log <+: t.log

theorem State.Quiet.refl (s : State) : s.Quiet s := ⟨rfl, List.prefix_refl _⟩

theorem State.Quiet.trans {s t u : State} (h : s.Quiet t) (h' : t.Quiet u) : s.Quiet u := ⟨h'.1.trans h.1, h.2.trans h'.2⟩

theorem State.Quiet.addReply {s t : State} (h : s.Quiet t) (r : Reply) : s.Quiet (t.addReply r) := h.trans ⟨rfl, List.prefix_refl _⟩

theorem State.quiet_addLog (s : State) (k : EventKind) (i : EventInfo) : s.Quiet (s.addLog k i) := ⟨rfl, List.prefix_append _ _⟩

theorem State.quiet_of_offRead {s t : State} (h : t.offRead = s.offRead) (hlog : s.log <+: t.log) : s.Quiet t :=
  ⟨(congrArg State.offQuiet h : t.offRead.offQuiet = s.offRead.offQuiet), hlog⟩

/-! ## The log only grows -/

theorem State.vdpRead_log (s : State) (n : Width) (a : Addr) : s.log <+: (s.vdpRead n a).1.log := by
  unfold State.vdpRead State.vdpReadWord
  dsimp only
  split
  · exact List.prefix_refl _
  · exact List.prefix_refl _
  · exact List.prefix_refl _
  · exact List.prefix_append _ _

theorem State.coRead_log (s : State) (n : Width) (a : Addr) : s.log <+: (s.coRead n a).1.log := by
  unfold State.coRead
  dsimp only
  split
  · cases n <;> exact List.prefix_refl _
  · exact List.prefix_append _ _

theorem State.ioByte_log (s : State) (o : Addr) : (s.ioByte o).1.log = s.log := by
  unfold State.ioByte
  split <;> rfl

theorem State.ioRead_log (s : State) (n : Width) (a : Addr) : (s.ioRead n a).1.log = s.log := by
  cases n
  · exact State.ioByte_log s _
  · exact (State.ioByte_log _ _).trans (State.ioByte_log s _)

theorem State.regRead_log (s : State) (n : Width) (a : Addr) : s.log <+: (s.regRead n a).1.log := by
  unfold State.regRead
  split
  · exact List.prefix_refl _
  all_goals exact List.prefix_append _ _

/-- A handler's read is quiet. -/
theorem State.quiet_readHandler (s : State) (g : Region) (n : Width) (a : Addr) : s.Quiet (s.readHandler g n a).1 := by
  refine State.quiet_of_offRead (State.readHandler_frame s g n a) ?_
  cases g
  · exact List.prefix_refl _
  · exact List.prefix_refl _
  · exact List.prefix_append _ _
  · exact State.coRead_log s n a
  · exact (State.ioRead_log s n a).symm ▸ List.prefix_refl _
  · exact State.regRead_log s n a
  · exact State.vdpRead_log s n a
  · exact List.prefix_append _ _

/-- A bus read is quiet (R100). -/
theorem State.quiet_memRead (s : State) (n : Size) (addr : BitVec 32) : s.Quiet (s.memRead n addr).1 := by
  unfold State.memRead
  dsimp only
  split
  · exact State.quiet_addLog s _ _
  · cases n
    · exact State.quiet_readHandler s _ _ _
    · exact State.quiet_readHandler s _ _ _
    · exact (State.quiet_readHandler s _ _ _).trans (State.quiet_readHandler _ _ _ _)

/-! ## The effects -/

/-- The row of a control register (R140 to R145). -/
def regRow (r : RegSel) (a : Addr) (val : Word) : Instr :=
  match r with
  | .memmode => .memmodeWr a val
  | .busreq => .busreqWr a val
  | .coreset => .coresetWr a val
  | .banksel => .bankselWr a val
  | .tmss => .tmssWr a val
  | .other => .regOtherWr a val

/-- What a completed operation did, by the shared operation it ran. -/
inductive Effect : Instr → State → State → Prop
  | quiet {i s t} (h : s.Quiet t) : Effect i s t
  | memWrite {s t} (addr : BitVec 32) (v : BusDatum) (h : s.memWrite addr v = .ok t) : Effect (.memWrite addr v) s t
  | writeRow {s t} (g : Region) (a : Addr) (v : Datum) (hg : s.region a = g) (h : s.writeHandler g a v = .ok t) :
      Effect (writeRow g a v) s t
  | fatal {i s} (k : EventKind) (a : Addr) : Effect i s (s.raiseFatal k a)
  | port {i s t} (a : Addr) (v : Datum) (h : s.vdpWrite a v = .ok t) : Effect i s t
  | regRow {s} (r : RegSel) (a : Addr) (val : Word) (hg : s.region a = .reg) (hr : regSelOf s.cfg a = r) :
      Effect (regRow r a val) s (s.regWrite a (.word val))
  | coresetAssert {s} (a : Addr) (hg : s.region a = .reg) (hr : regSelOf s.cfg a = .coreset) :
      Effect (.coresetAssert a) s (s.regWrite a (.word 0#16))
  | busreqAssert {s} (val : Word) : Effect (.busreqAssert val) s (s.setBusreq true)
  | busreqRelease {s} : Effect .busreqRelease s (s.setBusreq false)
  | coresetRelease {i s} (hi : i = .coresetRelease ∨ i = .coresetReleaseAlt) : Effect i s s.coresetRelease
  | mapBanksel {i s} (a : Addr) (val : Word) : Effect i s (s.mapBanksel a val)
  | overlayCtrl {i s} (val : Word) : Effect i s (s.setOverlayMode val)
  | mapWrite {i s} (a : Addr) (v : BusDatum) : Effect i s (splitWrite State.mapWrite s a v)
  | sramWrite {i s} (o : Overlay) (a : Addr) (v : Datum) (ho : s.cfg.overlay = some o) (ha : s.cfg.inOverlay a = true) :
      Effect i s (s.sramWrite o a v)
  | sample {i s} (c d : Bool) : Effect i s (s.eepStep c d)
  | defer {s} (e : DeferredWrite) : Effect (.arbDefer e) s (s.defer e)
  | drain {i s t} (h : s.drain = .ok t) : Effect i s t
  | latchMain {s} : Effect .arbIrqMain s s.latchMain
  | latchCo {s} : Effect .arbIrqCo s s.latchCo
  | iack {s} (cpu : Cpu) (w : Irq) : Effect (.cpuIack cpu w) s (s.iack cpu w)
  | start {i s t} (o : DmaOperands) (h : s.startDma o = .ok t) : Effect i s t
  | slot {i s t} (h : s.dmaSlot = .ok t) : Effect i s t
  | complete {i s t} (h : s.dmaComplete = .ok t) : Effect i s t
  | push {i s} (e : FifoEntry) (hroom : s.dma.fifoQueue.length < s.cfg.fifoCapacity) : Effect i s (s.pushFifo e)
  | fifoDrain {i s t} (h : s.fifoDrain = .ok t) : Effect i s t
  | readyEdge {i s t} (h : s.readyEdge = .ok t) : Effect i s t
  | tick {s t} (h : s.tick = .ok t) : Effect .schTick s t
  | newFrame {s} : Effect .schNewframe s s.newFrame
  | reset {s} : Effect .hostReset s s.hostReset

/-! ## One lemma for each shape of row -/

/-- A selected row that reads. -/
theorem Effect.of_answered {i : Instr} {s t : State} {c : Bool} (r : State × Datum) (hr : s.Quiet r.1)
    (h : whenSelected c (answered r) = .next t) : Effect i s t := by
  obtain ⟨-, hnext⟩ := whenSelected_next.mp h
  cases hnext
  exact .quiet (hr.addReply _)

/-- A selected row whose meaning always completes. -/
theorem Effect.of_selected {i : Instr} {s t u : State} {c : Bool} (hu : c = true → Effect i s u)
    (h : whenSelected c (.next u) = .next t) : Effect i s t := by
  obtain ⟨hc, hnext⟩ := whenSelected_next.mp h
  cases hnext
  exact hu hc

/-- A region's row that writes. -/
theorem Effect.of_writeRow {s t : State} {g : Region} {a : Addr} (v : Datum)
    (h : whenSelected (s.region a == g) (ofExcept (s.writeHandler g a v)) = .next t) : Effect (Sys2Proof.Machine.writeRow g a v) s t := by
  obtain ⟨hg, hnext⟩ := whenSelected_next.mp h
  exact .writeRow g a v (beq_iff_eq.mp hg) (ofExcept_next.mp hnext)

/-- A register's row is the write of its word at an address that selects it. -/
theorem exec_regRow (r : RegSel) (a : Addr) (val : Word) (s : State) :
    exec (Sys2Proof.Machine.regRow r a val) s = whenSelected (s.selectsReg a r) (.next (s.regWrite a (.word val))) := by
  cases hsel : s.selectsReg a r
  · cases r <;> exact if_neg (ne_true_of_eq_false hsel)
  · obtain ⟨-, hr⟩ := State.selectsReg_iff.mp hsel
    rw [whenSelected_true, State.regWrite, hr]
    cases r <;> exact if_pos hsel

/-- A register's row. -/
theorem Effect.of_regRow (r : RegSel) {s t : State} {a : Addr} {val : Word}
    (h : exec (Sys2Proof.Machine.regRow r a val) s = .next t) : Effect (Sys2Proof.Machine.regRow r a val) s t := by
  rw [exec_regRow] at h
  exact .of_selected (fun hsel => .regRow r a val (State.selectsReg_iff.mp hsel).1 (State.selectsReg_iff.mp hsel).2) h

/-- A row of a VDP port that writes. -/
theorem Effect.of_port {i : Instr} {s t : State} {c : Bool} {a : Addr} {v : Datum}
    (h : whenSelected c (ofExcept (s.vdpWrite a v)) = .next t) : Effect i s t :=
  .port a v (ofExcept_next.mp (whenSelected_next.mp h).2)

/-- A row of the line format. -/
theorem Effect.of_lineRow {i : Instr} {s t : State} {pc pd c d inState : Bool} {effect : State → State}
    (heffect : inState = true → effect (s.sampleLines c d) = (s.sampleLines c d).lineEvent (lineEventOf pc pd c d))
    (h : s.lineRow pc pd c d inState effect = .next t) : Effect i s t := by
  rw [State.lineRow_sample heffect h]
  exact .sample c d

/-- A row of DMA.SLOT. -/
theorem Effect.of_slotRow {i : Instr} {s t : State} {mode : DmaMode} {k : Except Refusal State}
    (hk : s.dma.mode = mode → s.dmaSlot = k) (h : s.slotRow mode k = .next t) : Effect i s t := by
  unfold State.slotRow at h
  split at h
  · cases h
    exact .quiet (.refl s)
  · obtain ⟨hmode, hnext⟩ := whenSelected_next.mp h
    exact .slot ((hk (beq_iff_eq.mp hmode)).trans (ofExcept_next.mp hnext))

theorem State.dmaSlot_fill {s : State} (h : s.dma.mode = .fill) : s.dmaSlot = s.slotFill := by rw [State.dmaSlot, h]

theorem State.dmaSlot_copy {s : State} (h : s.dma.mode = .copy) : s.dmaSlot = s.slotCopy := by rw [State.dmaSlot, h]

theorem State.dmaSlot_m68k {s : State} (h : s.dma.mode = .m68kToVram) : s.dmaSlot = s.slotM68k := by rw [State.dmaSlot, h]

/-! ## The contract's rows are its dispatch -/

theorem State.mapBanksel_linear {s : State} (h : s.mapper.variant = .linear) (a : Addr) (val : Word) :
    s.mapBanksel a val = s.linBanksel val := by rw [State.mapBanksel, h]

theorem State.mapBanksel_paged {s : State} (h : s.mapper.variant = .paged) (a : Addr) (val : Word) :
    s.mapBanksel a val = s.pagBanksel val := by rw [State.mapBanksel, h]

theorem State.mapBanksel_battery {s : State} (h : s.mapper.variant = .battery) (a : Addr) (val : Word) :
    s.mapBanksel a val = s.batBanksel a val := by rw [State.mapBanksel, h]

theorem State.mapWrite_battery {s : State} (h : s.mapper.variant = .battery) (a : Addr) (v : Datum) :
    s.mapWrite a v = s.batWrite a v := by rw [State.mapWrite, h]

theorem State.mapper_batWrite (s : State) (a : Addr) (v : Datum) : (s.batWrite a v).mapper = s.mapper :=
  (congrArg State.mapper (State.batWrite_frame s a v) : (s.batWrite a v).offCart.mapper = s.offCart.mapper)

theorem splitWrite_batWrite {s : State} (h : s.mapper.variant = .battery) (a : Addr) (v : BusDatum) :
    splitWrite State.batWrite s a v = splitWrite State.mapWrite s a v := by
  cases v with
  | byte b => exact (State.mapWrite_battery h _ _).symm
  | word w => exact (State.mapWrite_battery h _ _).symm
  | long l =>
    have hnext : (s.batWrite a (.word (highWord l))).mapper.variant = .battery := by rw [State.mapper_batWrite, h]
    simp only [splitWrite]
    rw [State.mapWrite_battery h, State.mapWrite_battery hnext]

/-- What one write keeps, a write of any size keeps (D45). -/
theorem splitWrite_keeps {P : State → Prop} {f : State → Addr → Datum → State} (hf : ∀ s a v, P s → P (f s a v)) {s : State}
    (a : Addr) (v : BusDatum) (h : P s) : P (splitWrite f s a v) := by
  cases v with
  | byte b => exact hf _ _ _ h
  | word w => exact hf _ _ _ h
  | long l => exact hf _ _ _ (hf _ _ _ h)

theorem State.quiet_romWrites (s : State) (a : Addr) (v : BusDatum) : s.Quiet (splitWrite (fun t x _ => t.romWrite x) s a v) :=
  splitWrite_keeps (P := fun t => s.Quiet t) (fun t _ _ h => h.trans (State.quiet_addLog t _ _)) a v (.refl s)

theorem Effect.of_bankValue {i : Instr} {s t : State} {val : Word} (h : execBankValue val s = .next t) : Effect i s t := by
  unfold execBankValue at h
  cases hv : s.mapper.variant <;> rw [hv] at h <;> cases h
  · rw [← State.mapBanksel_linear hv 0#24]
    exact .mapBanksel _ _
  · rw [← State.mapBanksel_paged hv 0#24]
    exact .mapBanksel _ _

theorem Effect.of_sramDev {i : Instr} {s t : State} {a : Addr} {acc : DevAccess} (h : execSramDev a acc s = .next t) :
    Effect i s t := by
  unfold execSramDev at h
  split at h
  · cases h
  · next o ho =>
    split_ifs at h with hkind ha
    cases acc with
    | read n =>
      cases h
      exact .quiet ((State.Quiet.refl s).addReply _)
    | write v =>
      cases h
      exact .sramWrite o a v ho ha

theorem Effect.of_eepromDev {i : Instr} {s t : State} {a : Addr} {acc : DevAccess} (h : execEepromDev a acc s = .next t) :
    Effect i s t := by
  unfold execEepromDev at h
  split_ifs at h
  cases acc with
  | read n =>
    cases h
    exact .quiet ((State.Quiet.refl s).addReply _)
  | write v =>
    cases h
    exact .sample _ _

theorem Effect.of_vdpRd {i : Instr} {s t : State} {n : Width} {a : Addr} (h : execVdpRd n a s = .next t) : Effect i s t := by
  obtain ⟨-, hnext⟩ := whenSelected_next.mp h
  split at hnext
  · cases hnext
    exact .quiet ((State.quiet_readHandler s .vdp n a).addReply _)
  · cases hnext
    exact .quiet ((State.quiet_addLog s _ _).addReply _)

theorem Effect.of_vdpWr {s t : State} {a : Addr} {v : Datum} (h : execVdpWr a v s = .next t) : Effect (.vdpWr a v) s t := by
  obtain ⟨-, hnext⟩ := whenSelected_next.mp h
  split at hnext
  · exact .port a v (ofExcept_next.mp hnext)
  · cases hnext
    exact .fatal _ _

/-- A deferred row's write is a port write that waits (R118). -/
theorem Effect.of_vdpWrDeferred {i : Instr} {s t : State} {a : Addr} {v : Datum} (h : execVdpWrDeferred a v s = .next t) :
    Effect i s t := by
  obtain ⟨hsel, hnext⟩ := whenSelected_next.mp h
  cases hnext
  simp only [State.selectsPort, Bool.and_eq_true, Bool.or_eq_true, beq_iff_eq, Bool.not_eq_true'] at hsel
  obtain ⟨hport, hbusy⟩ := hsel
  refine .port a v (State.vdpWrite_not_ready s ⟨a, v⟩ ((reachesPort_iff _).mpr ?_) hbusy)
  exact hport.imp And.right And.right

/-! ## Every operation has an effect -/

/-- The inversion of `exec`: a completed operation is one of the effects. -/
theorem exec_effect {i : Instr} {s t : State} (h : exec i s = .next t) : Effect i s t := by
  cases i with
  -- the bus and the region rows
  | memRead n addr =>
    cases h
    exact .quiet ((State.quiet_memRead s n addr).addReply _)
  | memWrite addr v => exact .memWrite addr v (ofExcept_next.mp h)
  | cartRd n a => exact .of_answered _ (State.quiet_readHandler s .cart n a) h
  | cartWr a v => exact .of_writeRow (g := .cart) v h
  | ramRd n a => exact .of_answered _ (State.quiet_readHandler s .ram n a) h
  | ramWr a v => exact .of_writeRow (g := .ram) v h
  | rsvRd n a => exact .of_answered _ (State.quiet_readHandler s .reserved n a) h
  | rsvWr a v => exact .of_writeRow (g := .reserved) v h
  | coRd n a => exact .of_answered _ (State.quiet_readHandler s .coCpu n a) h
  | coWr a v => exact .of_writeRow (g := .coCpu) v h
  | ioRd n a => exact .of_answered _ (State.quiet_readHandler s .io n a) h
  | ioWr a v => exact .of_writeRow (g := .io) v h
  | regRd n a => exact .of_answered _ (State.quiet_readHandler s .reg n a) h
  | regWr a v => exact .of_writeRow (g := .reg) v h
  | vdpRd n a => exact .of_vdpRd h
  | vdpWr a v => exact .of_vdpWr h
  | unmappedRd n a => exact .of_answered _ (State.quiet_readHandler s .unmapped n a) h
  | unmappedWr a v => exact .of_writeRow (g := .unmapped) v h
  -- the VDP ports
  | vdpRdData n a | vdpRdControl n a | vdpRdHv n a | vdpRdUnexpected n a =>
    exact .of_answered _ (State.quiet_readHandler s .vdp n a) h
  | vdpWrData a v | vdpWrControl a v | vdpWrUnexpected a v => exact .of_port h
  | vdpWrDeferred a v => exact .of_vdpWrDeferred h
  -- the control registers
  | memmodeWr a val => exact .of_regRow .memmode h
  | busreqWr a val => exact .of_regRow .busreq h
  | coresetWr a val => exact .of_regRow .coreset h
  | bankselWr a val => exact .of_regRow .banksel h
  | tmssWr a val => exact .of_regRow .tmss h
  | regOtherWr a val => exact .of_regRow .other h
  | busreqRd n a => exact .of_answered _ (.refl s) h
  | regOtherRd n a => exact .of_answered _ (State.quiet_addLog s _ _) h
  | busreqAssert val => cases h; exact .busreqAssert val
  | busreqRelease => cases h; exact .busreqRelease
  | busreqUnexpected a val | coresetUnexpected a val =>
    exact .of_selected (fun _ => .quiet (State.quiet_addLog s _ _)) h
  | coresetAssert a =>
    refine .of_selected (fun hsel => ?_) h
    obtain ⟨hg, hr⟩ := State.selectsReg_iff.mp hsel
    have hwrite : s.regWrite a (.word 0#16) = s.coresetAssert a := by rw [State.regWrite, hr]; rfl
    exact hwrite ▸ .coresetAssert a hg hr
  | coresetRelease => cases h; exact .coresetRelease (.inl rfl)
  | coresetReleaseAlt => cases h; exact .coresetRelease (.inr rfl)
  | overlayCtrl val => exact .of_selected (fun _ => .overlayCtrl val) h
  | bankValue val => exact .of_bankValue h
  -- the line format
  | eepStart => exact .of_lineRow (fun _ => rfl) h
  | eepStop => exact .of_lineRow (fun _ => rfl) h
  | gwaRise pd d | writeRise pd d | readRise pd d | gwaFall pd d | writeFall pd d | readFall pd d =>
    exact .of_lineRow (fun hs => by simp [State.lineEvent, beq_iff_eq.mp hs]) h
  | standbyRise pd d | waitStopRise pd d | standbyFall pd d | waitStopFall pd d =>
    exact .of_lineRow (effect := id) (fun hs => by simp [State.lineEvent, beq_iff_eq.mp hs]) h
  | eepNoneLow pd d => exact .of_lineRow (effect := id) (fun _ => by rw [lineEventOf_low]; rfl) h
  | eepNoneHigh0 => exact .of_lineRow (effect := id) (fun _ => rfl) h
  | eepNoneHigh1 => exact .of_lineRow (effect := id) (fun _ => rfl) h
  -- the arbiter
  | arbPen cpu n => cases h; cases cpu <;> exact .quiet ⟨rfl, List.prefix_refl _⟩
  | arbTakepen cpu => cases h; cases cpu <;> exact .quiet ⟨rfl, List.prefix_refl _⟩
  | arbDefer e => cases h; exact .defer e
  | arbDrain => exact .drain (ofExcept_next.mp h)
  | arbIrqMain => cases h; exact .latchMain
  | arbIrqCo => cases h; exact .latchCo
  | arbRunning | arbFreeze b | vdpSetlines v hl => cases h; exact .quiet ⟨rfl, List.prefix_refl _⟩
  | cpuIack cpu w => cases h; exact .iack cpu w
  -- the mapper and the EEPROM
  | mapRd n a => cases h; exact .quiet ((State.Quiet.refl s).addReply _)
  | linRd n a | pagRd n a | batRd n a => exact .of_selected (fun _ => .quiet ((State.Quiet.refl s).addReply _)) h
  | mapWr a v => cases h; exact .mapWrite a v
  | linWr a v | pagWr a v => exact .of_selected (fun _ => .quiet (State.quiet_romWrites s a v)) h
  | batWr a v => exact .of_selected (fun hv => splitWrite_batWrite (beq_iff_eq.mp hv) a v ▸ .mapWrite a v) h
  | mapBanksel a val => cases h; exact .mapBanksel a val
  | linBanksel a val => exact .of_selected (fun hv => State.mapBanksel_linear (beq_iff_eq.mp hv) a val ▸ .mapBanksel a val) h
  | pagBanksel a val => exact .of_selected (fun hv => State.mapBanksel_paged (beq_iff_eq.mp hv) a val ▸ .mapBanksel a val) h
  | batBanksel a val => exact .of_selected (fun hv => State.mapBanksel_battery (beq_iff_eq.mp hv) a val ▸ .mapBanksel a val) h
  | sramDev a acc => exact .of_sramDev h
  | eepromDev a acc => exact .of_eepromDev (a := a) h
  | mapClose | hostClose => cases h; exact .quiet ⟨rfl, List.prefix_refl _⟩
  | eepStep c d =>
    unfold exec execEepStep at h
    split_ifs at h
    cases h
    exact .sample c d
  | eepOut =>
    unfold exec execEepOut at h
    split_ifs at h
    cases h
    exact .quiet ((State.Quiet.refl s).addReply _)
  -- the engine
  | dmaStart o => exact .start o (ofExcept_next.mp h)
  | dmaSlotFill => exact .of_slotRow State.dmaSlot_fill h
  | dmaSlotCopy => exact .of_slotRow State.dmaSlot_copy h
  | dmaSlotM68k => exact .of_slotRow State.dmaSlot_m68k h
  | dmaComplete => exact .complete (ofExcept_next.mp h)
  | fifoPush target addr data =>
    unfold exec execFifoPush at h
    split_ifs at h with hroom
    cases h
    exact .push _ hroom
  | fifoDrain => exact .fifoDrain (ofExcept_next.mp h)
  | dmaStatus | dmaQslots res period => cases h; exact .quiet ((State.Quiet.refl s).addReply _)
  | dmaReadyedge => exact .readyEdge (ofExcept_next.mp h)
  -- the scheduler and the host
  | schTick => exact .tick (ofExcept_next.mp h)
  | schNewframe => cases h; exact .newFrame
  | hostNewframe => cases h; exact .quiet ⟨rfl, List.prefix_refl _⟩
  | hostReset => cases h; exact .reset

end Sys2Proof.Machine
end

section
/-! PROOFS. The invariant over every step (R174, R205, R232, R275): each effect keeps it, a tick part by part, and a new or a reset
session meets it. -/

namespace Sys2Proof.Machine

/-! ## Effects the shared laws do not name -/

theorem State.Inv.of_quiet {s t : State} (h : s.Inv) (hq : s.Quiet t) : t.Inv :=
  h.of_view (congrArg State.invView hq.1 : t.offQuiet.invView = s.offQuiet.invView)

/-- SRAM.DEV inside the overlay (R171). -/
theorem State.Inv.sramWrite {s : State} (h : s.Inv) {o : Overlay} {a : Addr} (v : Datum) (ho : s.cfg.overlay = some o)
    (ha : s.cfg.inOverlay a = true) : (s.sramWrite o a v).Inv := by
  have hstores := h.stores.sramWrite v ho ha
  cases v <;> exact ⟨h.cfg, hstores, ⟨h.dma.busy, h.dma.length, h.dma.fifo, h.dma.phase⟩, ⟨h.eeprom.cycle, h.eeprom.idle⟩,
    ⟨h.sched.main, h.sched.co, h.sched.vdp, h.sched.audio⟩, h.variant⟩

/-- A transfer with no unit left has ended already, so completing it keeps the engine's invariants. -/
theorem State.Inv.complete {s t : State} (h : s.Inv) (e : s.dmaComplete = .ok t) : t.Inv := by
  refine State.Inv.dmaComplete (fun _ => h) (fun hzero => ?_) e
  exact h.withDma ⟨rfl, by simp [hzero], h.dma.fifo, fun _ => rfl⟩

theorem State.Inv.newFrame {s : State} (h : s.Inv) : s.newFrame.Inv :=
  State.Inv.withSched (s := s.addCall .onNewFrame) (h.of_view rfl) ⟨Nat.zero_le _, Nat.zero_le _, Nat.zero_le _, Nat.zero_le _⟩

/-- A session right after its creation (R24, R311). -/
theorem State.Inv.create {cfg : BusConfig} (hok : cfg.ok = true) : (State.create cfg).Inv := by
  refine ⟨hok, State.StoresOk.create cfg, ⟨rfl, by simp [State.create, DmaState.reset], Nat.zero_le _, fun _ => rfl⟩,
    ⟨Nat.zero_le _, fun _ => rfl⟩, ⟨Nat.le_refl _, Nat.le_refl _, Nat.le_refl _, Nat.le_refl _⟩, ?_⟩
  cases hover : cfg.overlay <;> simp [State.create, MapperState.reset, hover]

/-- A reset keeps the two battery-backed stores and starts everything else anew (R310). -/
theorem State.Inv.hostReset {s : State} (h : s.Inv) : s.hostReset.Inv := by
  have hnew := State.Inv.create h.cfg
  refine ⟨h.cfg, ?_, ⟨hnew.dma.busy, hnew.dma.length, hnew.dma.fifo, hnew.dma.phase⟩, ⟨hnew.eeprom.cycle, hnew.eeprom.idle⟩,
    ⟨hnew.sched.main, hnew.sched.co, hnew.sched.vdp, hnew.sched.audio⟩, hnew.variant⟩
  exact { hnew.stores with
    sramWf := h.stores.sramWf, sramBelow := h.stores.sramBelow, eepWf := h.stores.eepWf, eepBelow := h.stores.eepBelow }

/-! ## The tick (R271 to R277) -/

theorem State.Inv.tickMain {s t : State} (h : s.Inv) (e : s.tickMain = .ok t) : t.Inv := by
  unfold State.tickMain at e
  split at e
  · split at e
    · split at e
      · cases e
      · next s1 hrun =>
        have hunit : s1.Inv := (h.of_view rfl : s.askMainUnit.Inv).runMain hrun
        split at e
        · cases e
          exact hunit
        · cases e
          have hend : ((s1.clearPenalty .main).latchMain).Inv := hunit.of_view rfl
          exact hend.withSched ⟨hend.sched.main.trans (le_dueTick _ _ _), hend.sched.co, hend.sched.vdp, hend.sched.audio⟩
    · cases e
      exact h.withSched ⟨h.sched.main.trans (Nat.le_add_right _ _), h.sched.co, h.sched.vdp, h.sched.audio⟩
  · cases e
    exact h

theorem State.Inv.tickCo {s : State} (h : s.Inv) : s.tickCo.Inv := by
  unfold State.tickCo
  split
  · split
    · have hunit : (s.askCoUnit.runCo s.coUnit.ops).Inv := (h.of_view rfl : s.askCoUnit.Inv).runCo _
      have hend : (((s.askCoUnit.runCo s.coUnit.ops).clearPenalty .co).latchCo).Inv := hunit.of_view rfl
      exact hend.withSched ⟨hend.sched.main, hend.sched.co.trans (le_dueTick _ _ _), hend.sched.vdp, hend.sched.audio⟩
    · exact h.withSched ⟨h.sched.main, h.sched.co.trans (Nat.le_add_right _ _), h.sched.vdp, h.sched.audio⟩
  · exact h

theorem State.Inv.tickVdp {s t : State} {edge : Bool} (h : s.Inv) (e : s.tickVdp = .ok (t, edge)) : t.Inv := by
  unfold State.tickVdp at e
  split at e
  · split at e
    · cases e
    · next s1 hrun =>
      cases e
      have hunit : s1.Inv := (h.of_view rfl : s.askVdpUnit.Inv).runVdp hrun
      exact hunit.withSched ⟨hunit.sched.main, hunit.sched.co, hunit.sched.vdp.trans (le_dueTick _ _ _), hunit.sched.audio⟩
  · cases e
    exact h

theorem State.Inv.tickAudio {s : State} (h : s.Inv) : s.tickAudio.Inv := by
  unfold State.tickAudio
  split
  · have hunit : s.askAudioUnit.Inv := h.of_view rfl
    exact hunit.withSched ⟨hunit.sched.main, hunit.sched.co, hunit.sched.vdp, hunit.sched.audio.trans (le_dueTick _ _ _)⟩
  · exact h

/-! A device's part of a tick leaves it due later, and no other device's counter moves. -/

theorem State.tickMain_sched {s t : State} (h : s.Inv) (e : s.tickMain = .ok t) (hf : t.fatal = none) :
    t.cfg = s.cfg ∧ t.sched = { s.sched with nextMain := t.sched.nextMain } ∧ s.sched.masterTick < t.sched.nextMain := by
  obtain ⟨hdiv, -, -, -⟩ := BusConfig.divisors_pos h.cfg
  unfold State.tickMain at e
  split at e
  · next hdue =>
    split at e
    · split at e
      · cases e
      · next s1 hrun =>
        have hclock : s1.clock = s.askMainUnit.clock := State.runMain_clock hrun
        obtain ⟨hsched, hcfg⟩ : s1.sched = s.sched ∧ s1.cfg = s.cfg := Prod.mk.inj hclock
        split at e
        · next hfatal =>
          cases e
          simp [hf] at hfatal
        · cases e
          refine ⟨hcfg, ?_, ?_⟩
          · simp [hsched]
          · simpa [hsched, hdue] using lt_dueTick _ hdiv
    · cases e
      exact ⟨rfl, rfl, by simp only; omega⟩
  · cases e
    exact ⟨rfl, rfl, by have := h.sched.main; omega⟩

theorem State.tickCo_sched {s : State} (h : s.Inv) :
    s.tickCo.cfg = s.cfg ∧ s.tickCo.sched = { s.sched with nextCo := s.tickCo.sched.nextCo }
      ∧ s.sched.masterTick < s.tickCo.sched.nextCo := by
  obtain ⟨-, hdiv, -, -⟩ := BusConfig.divisors_pos h.cfg
  have hclock : (s.askCoUnit.runCo s.coUnit.ops).clock = (s.sched, s.cfg) := State.runCo_clock s.askCoUnit s.coUnit.ops
  unfold State.tickCo
  dsimp only
  generalize s.askCoUnit.runCo s.coUnit.ops = s1 at hclock ⊢
  obtain ⟨hsched, hcfg⟩ := Prod.mk.inj hclock
  split
  · next hdue =>
    split
    · refine ⟨hcfg, by simp [hsched], by simpa [hsched, hdue] using lt_dueTick _ hdiv⟩
    · exact ⟨rfl, rfl, by simp only; omega⟩
  · exact ⟨rfl, rfl, by have := h.sched.co; omega⟩

theorem State.tickVdp_sched {s t : State} {edge : Bool} (h : s.Inv) (e : s.tickVdp = .ok (t, edge)) :
    t.cfg = s.cfg ∧ t.sched = { s.sched with nextVdp := t.sched.nextVdp } ∧ s.sched.masterTick < t.sched.nextVdp := by
  obtain ⟨-, -, hdiv, -⟩ := BusConfig.divisors_pos h.cfg
  unfold State.tickVdp at e
  split at e
  · next hdue =>
    split at e
    · cases e
    · next s1 hrun =>
      cases e
      have hclock : s1.clock = s.askVdpUnit.clock := State.runVdp_clock hrun
      obtain ⟨hsched, hcfg⟩ : s1.sched = s.sched ∧ s1.cfg = s.cfg := Prod.mk.inj hclock
      exact ⟨hcfg, by simp [hsched], by simpa [hsched, hdue] using lt_dueTick _ hdiv⟩
  · cases e
    exact ⟨rfl, rfl, by have := h.sched.vdp; omega⟩

theorem State.tickAudio_sched {s : State} (h : s.Inv) :
    s.tickAudio.sched = { s.sched with nextAudio := s.tickAudio.sched.nextAudio }
      ∧ s.sched.masterTick < s.tickAudio.sched.nextAudio := by
  obtain ⟨-, -, -, hdiv⟩ := BusConfig.divisors_pos h.cfg
  unfold State.tickAudio
  split
  · next hdue => exact ⟨rfl, by simpa [hdue] using lt_dueTick _ hdiv⟩
  · exact ⟨rfl, by have := h.sched.audio; omega⟩

/-- The master tick may advance once no device is due (R275). -/
theorem State.Inv.endTick {s : State} (h : s.Inv) (hmain : s.sched.masterTick < s.sched.nextMain)
    (hco : s.sched.masterTick < s.sched.nextCo) (hvdp : s.sched.masterTick < s.sched.nextVdp)
    (haudio : s.sched.masterTick < s.sched.nextAudio) (edge : Bool) : (s.endTick edge).Inv := by
  have hnext : State.Inv { s with sched := { s.sched with masterTick := s.sched.masterTick + 1 } } :=
    h.withSched ⟨hmain, hco, hvdp, haudio⟩
  cases edge
  · exact hnext
  · exact hnext.newFrame

theorem State.Inv.tick {s t : State} (h : s.Inv) (e : s.tick = .ok t) : t.Inv := by
  unfold State.tick at e
  split at e
  · cases e
  · next s1 hmain =>
    have h1 := h.tickMain hmain
    split at e
    · cases e
      exact h1
    · next hfatal =>
      split at e
      · cases e
      · next s2 edge hvdp =>
        cases e
        have h2 := h1.tickCo.tickVdp hvdp
        obtain ⟨-, hs1, hm⟩ := State.tickMain_sched h hmain (by simpa using hfatal)
        obtain ⟨-, hsc, hc⟩ := State.tickCo_sched h1
        obtain ⟨-, hs2, hv⟩ := State.tickVdp_sched h1.tickCo hvdp
        obtain ⟨hsa, ha⟩ := State.tickAudio_sched h2
        refine h2.tickAudio.endTick ?_ ?_ ?_ ?_ edge
        · rw [hsa, hs2, hsc, hs1]; exact hm
        · rw [hsa, hs2, hsc, hs1]; rw [hs1] at hc; exact hc
        · rw [hsa, hs2, hsc, hs1]; rw [hsc, hs1] at hv; exact hv
        · rw [hsa, hs2, hsc, hs1]; rw [hs2, hsc, hs1] at ha; exact ha

/-! ## The obligations -/

/-- Every effect keeps the invariant. -/
theorem State.Inv.effect {i : Instr} {s t : State} (h : s.Inv) (e : Effect i s t) : t.Inv := by
  cases e with
  | quiet hq => exact h.of_quiet hq
  | memWrite addr v hw => exact h.memWrite hw
  | writeRow g a v hg hw => exact h.writeHandler hw
  | port a v hw => exact h.vdpWrite hw
  | regRow r a val hg hr => exact h.regWrite a _
  | coresetAssert a hg hr => exact h.regWrite a _
  | fatal | busreqAssert | busreqRelease | coresetRelease | overlayCtrl | defer | latchMain | latchCo => exact h.of_view rfl
  | mapBanksel a val => exact h.mapBanksel a val
  | mapWrite a v => exact splitWrite_keeps (fun _ x d hx => hx.mapWrite x d) a v h
  | sramWrite o a v ho ha => exact h.sramWrite v ho ha
  | sample c d => exact h.eepStep c d
  | drain hd => exact h.drain hd
  | iack cpu w => cases cpu <;> exact h.of_view rfl
  | start o hs => exact h.startDma hs
  | slot hs => exact h.dmaSlot hs
  | complete hc => exact h.complete hc
  | push x hroom => exact h.pushFifo x hroom
  | fifoDrain hd => exact h.fifoDrain hd
  | readyEdge hr => exact h.readyEdge hr
  | tick ht => exact h.tick ht
  | newFrame => exact h.newFrame
  | reset => exact h.hostReset

/-- What a step performs is an operation in the same state but for the inbox. -/
theorem step_next {s t : State} (h : step s = .next t) :
    ∃ (i : Instr) (rest : List (List Byte)), exec i { s with inbox := rest } = .next t := by
  unfold step at h
  split at h
  · cases h
  · next i u hfetch =>
    suffices hu : ∃ rest, u = { s with inbox := rest } by
      obtain ⟨rest, rfl⟩ := hu
      exact ⟨i, rest, h⟩
    have hadmitted : ∀ {j : Instr} {x : State}, s.admitted j x = .ok (i, u) → u = x := fun hx => by
      unfold State.admitted at hx
      split_ifs at hx
      exact ((Prod.mk.inj (Except.ok.inj hx)).2).symm
    unfold State.fetch at hfetch
    split at hfetch
    · exact ⟨s.inbox, hadmitted hfetch⟩
    · next rest _ =>
      split at hfetch
      · cases hfetch
      · exact ⟨rest, hadmitted hfetch⟩

/-- Settles O58: a step is an effect of the state its record is taken from, and every effect keeps the invariant. -/
theorem everyStepKeepsTheInvariant : Obligations.EveryStepKeepsTheInvariant := by
  intro s t h hstep
  obtain ⟨i, rest, hexec⟩ := step_next hstep
  have htaken : State.Inv { s with inbox := rest } := h.of_view rfl
  exact htaken.effect (exec_effect hexec)

/-- A saved image fills the one store it is for (R311). -/
theorem State.createSession_eq (cfg : BusConfig) (image : Option (List Byte)) : State.createSession cfg image
    = { State.create cfg with sram := (State.createSession cfg image).sram, eep := (State.createSession cfg image).eep } := by
  unfold State.createSession
  split
  · rfl
  · rfl
  · split <;> rfl

theorem State.Inv.createSession {cfg : BusConfig} (hok : cfg.ok = true) (image : Option (List Byte)) :
    (State.createSession cfg image).Inv := by
  have hnew := State.Inv.create hok
  have hstores := State.StoresOk.createSession cfg image
  rw [State.createSession_eq] at hstores ⊢
  exact ⟨hok, hstores, ⟨hnew.dma.busy, hnew.dma.length, hnew.dma.fifo, hnew.dma.phase⟩, ⟨hnew.eeprom.cycle, hnew.eeprom.idle⟩,
    ⟨hnew.sched.main, hnew.sched.co, hnew.sched.vdp, hnew.sched.audio⟩, hnew.variant⟩

/-- Nothing waits in an empty queue. -/
theorem State.DeferOk.of_empty {s : State} (h : s.deferredQueue = []) : s.DeferOk := fun hne => absurd h hne

/-- Settles O60: a created session meets the invariant and its queue is empty; the reset state is a created session. -/
theorem invariantsHoldAtReset : Obligations.InvariantsHoldAtReset := by
  refine ⟨fun cfg image hok => ⟨.createSession hok image, ?_⟩, fun cfg hok => ⟨.create hok, .of_empty rfl⟩,
    .create Config.session_ok, .of_empty rfl⟩
  rw [State.createSession_eq]
  exact .of_empty rfl

end Sys2Proof.Machine
end

section
/-! PROOFS. A deferred write waits only while the VDP is not ready (R231). Each shared operation keeps it; a drain and a ready edge
restore it whatever the state was. -/

namespace Sys2Proof.Machine

/-! ## What the deferral invariant reads -/

theorem State.DeferOk.of_same {s t : State} (h : s.DeferOk) (hqueue : t.deferredQueue = s.deferredQueue)
    (hfifo : t.dma.fifoQueue = s.dma.fifoQueue) (hmode : t.dma.mode = s.dma.mode) (hcfg : t.cfg = s.cfg) : t.DeferOk := by
  have hready : t.vdpReady = s.vdpReady := by simp only [State.vdpReady, State.fifoFull, State.m2vBusy, hfifo, hmode, hcfg]
  intro hne
  rw [hready]
  exact h (hqueue ▸ hne)

/-- The queue, the engine and the parameters. -/
def State.waiting (s : State) : List DeferredWrite × DmaState × BusConfig := (s.deferredQueue, s.dma, s.cfg)

theorem State.DeferOk.of_waiting {s t : State} (h : s.DeferOk) (hsame : t.waiting = s.waiting) : t.DeferOk := by
  obtain ⟨hqueue, hdma, hcfg⟩ : t.deferredQueue = s.deferredQueue ∧ t.dma = s.dma ∧ t.cfg = s.cfg := by
    simpa only [State.waiting, Prod.mk.injEq] using hsame
  exact h.of_same hqueue (by rw [hdma]) (by rw [hdma]) hcfg

/-- While the VDP is ready nothing waits. -/
theorem State.DeferOk.empty_of_ready {s : State} (h : s.DeferOk) (hready : s.vdpReady = true) : s.deferredQueue = [] := by
  by_contra hne
  simp [h hne] at hready

/-- With writes waiting and no memory-to-VRAM transfer the FIFO is full. -/
theorem State.DeferOk.fifoFull {s : State} (h : s.DeferOk) (hne : s.deferredQueue ≠ []) (hmode : s.dma.mode ≠ .m68kToVram) :
    s.fifoFull = true := by
  have hbusy := h hne
  have hm2v : s.m2vBusy = false := beq_eq_false_iff_ne.mpr hmode
  simpa [State.vdpReady, hm2v] using hbusy

theorem State.waiting_of_offQuiet {s t : State} (h : t.offQuiet = s.offQuiet) : t.waiting = s.waiting :=
  (congrArg State.waiting h : t.offQuiet.waiting = s.offQuiet.waiting)

theorem State.waiting_of_offReg {s t : State} (h : t.offReg = s.offReg) : t.waiting = s.waiting :=
  (congrArg State.waiting h : t.offReg.waiting = s.offReg.waiting)

theorem State.waiting_of_offCart {s t : State} (h : t.offCart = s.offCart) : t.waiting = s.waiting :=
  (congrArg State.waiting h : t.offCart.waiting = s.offCart.waiting)

theorem State.waiting_of_offEeprom {s t : State} (h : t.offEeprom = s.offEeprom) : t.waiting = s.waiting :=
  (congrArg State.waiting h : t.offEeprom.waiting = s.offEeprom.waiting)

/-! ## The VDP's operations -/

/-- A start while writes wait leaves the FIFO as full as it was (R221). -/
theorem State.DeferOk.startDma {s t : State} (h : s.DeferOk) {o : DmaOperands} (e : s.startDma o = .ok t) : t.DeferOk := by
  obtain ⟨⟨-, hmode⟩, rfl⟩ := State.startDma_ok.mp e
  intro hne
  have hfull : (s.loadDma o).fifoFull = true := h.fifoFull hne (by simp [hmode])
  simp [State.vdpReady, hfull]

theorem State.portWrite_deferredQueue {s t : State} {p : Port} {w : Word} (e : s.portWrite p w = .ok t) :
    t.deferredQueue = s.deferredQueue := by
  unfold State.portWrite at e
  dsimp only at e
  split at e
  · cases e
    cases p <;> rfl
  · obtain ⟨-, rfl⟩ := State.startDma_ok.mp e
    cases p <;> rfl

theorem State.DeferOk.vdpWrite {s t : State} (h : s.DeferOk) {x : Addr} {v : Datum} (e : s.vdpWrite x v = .ok t) : t.DeferOk := by
  unfold State.vdpWrite State.vdpForward at e
  split at e
  · cases e
    exact h
  · cases e
    exact h
  all_goals
    split at e
    · next hready => exact .of_empty ((State.portWrite_deferredQueue e).trans (h.empty_of_ready hready))
    · next hbusy =>
      cases e
      exact fun _ => Bool.not_eq_true _ ▸ hbusy

theorem State.DeferOk.replay {s t : State} {q : List DeferredWrite} (h : s.DeferOk) (e : s.replay q = .ok t) : t.DeferOk := by
  induction q generalizing s with
  | nil =>
    cases e
    exact h
  | cons x q ih =>
    simp only [State.replay] at e
    split at e
    · cases e
    · next hx => exact ih (h.vdpWrite hx) e

/-- A drain starts from an empty queue, so it ends with the invariant whatever the state was. -/
theorem State.DeferOk.of_drain {s t : State} (e : s.drain = .ok t) : t.DeferOk := by
  unfold State.drain at e
  split at e
  · cases e
  · next u hu =>
    cases e
    have hreplayed : u.DeferOk := State.DeferOk.replay (.of_empty rfl) hu
    rw [State.redeferred_eq]
    exact hreplayed

/-- So does a ready edge: it drains exactly when the invariant fails. -/
theorem State.DeferOk.of_readyEdge {s t : State} (e : s.readyEdge = .ok t) : t.DeferOk := by
  unfold State.readyEdge at e
  split at e
  · exact .of_drain e
  · next hidle =>
    cases e
    intro hne
    by_contra hready
    exact hidle ⟨by simpa using hready, hne⟩

theorem State.DeferOk.dmaComplete {s t : State} (h : s.DeferOk) (e : s.dmaComplete = .ok t) : t.DeferOk := by
  unfold State.dmaComplete at e
  split at e
  · exact .of_readyEdge e
  · cases e
    exact h

theorem State.DeferOk.dmaSlot {s t : State} (h : s.DeferOk) (e : s.dmaSlot = .ok t) : t.DeferOk := by
  unfold State.dmaSlot at e
  split at e
  · cases e
    exact h
  · exact State.DeferOk.dmaComplete (s := s.fillUnit) (h.of_same rfl rfl rfl rfl) e
  · unfold State.slotCopy at e
    split at e
    · exact State.DeferOk.dmaComplete (s := s.copyUnit) (h.of_same rfl rfl rfl rfl) e
    · cases e
      exact h.of_same rfl rfl rfl rfl
  · unfold State.slotM68k at e
    split at e
    · cases e
      exact h.of_same rfl rfl rfl rfl
    · have hread : s.sourceRead.1.waiting = s.waiting :=
        State.waiting_of_offQuiet (State.quiet_memRead s .word (s.dma.sourceAddress.setWidth 32)).1
      have hsource : s.sourceRead.1.DeferOk := h.of_waiting hread
      exact State.DeferOk.dmaComplete (s := s.m68kUnit) (hsource.of_same rfl rfl rfl rfl) e

theorem State.DeferOk.fifoDrain {s t : State} (h : s.DeferOk) (e : s.fifoDrain = .ok t) : t.DeferOk := by
  unfold State.fifoDrain at e
  split at e
  · cases e
    exact h
  · exact .of_readyEdge e

/-- A push while writes wait is one under a memory-to-VRAM transfer, which stays (R226). -/
theorem State.DeferOk.pushFifo {s : State} (h : s.DeferOk) (x : FifoEntry) (hroom : s.dma.fifoQueue.length < s.cfg.fifoCapacity) :
    (s.pushFifo x).DeferOk := by
  intro hne
  by_cases hmode : s.dma.mode = .m68kToVram
  · have hbusy : (s.pushFifo x).m2vBusy = true := beq_iff_eq.mpr hmode
    simp [State.vdpReady, hbusy]
  · have hfull := h.fifoFull hne hmode
    simp only [State.fifoFull, beq_iff_eq] at hfull
    omega

/-! ## The bus and the units of work -/

theorem State.DeferOk.writeHandler {s t : State} (h : s.DeferOk) {g : Region} {a : Addr} {v : Datum}
    (e : s.writeHandler g a v = .ok t) : t.DeferOk := by
  cases g <;> simp only [State.writeHandler, Except.ok.injEq] at e
  case vdp => exact h.vdpWrite e
  all_goals subst e
  case cart => exact h.of_waiting (State.waiting_of_offCart (State.mapWrite_frame s a v))
  case reg => exact h.of_waiting (State.waiting_of_offReg (State.regWrite_frame s a v))
  case ram => cases v <;> exact h
  case coCpu =>
    unfold State.coWrite
    dsimp only
    split <;> exact h
  case io =>
    cases v
    · simp only [State.ioWrite]
      rw [State.ioPut_frame]
      exact h
    · simp only [State.ioWrite]
      rw [State.ioPut_frame, State.ioPut_frame]
      exact h
  all_goals exact h

theorem State.DeferOk.memWrite {s t : State} (h : s.DeferOk) {addr : BitVec 32} {v : BusDatum} (e : s.memWrite addr v = .ok t) :
    t.DeferOk := by
  unfold State.memWrite at e
  dsimp only at e
  split at e
  · cases e
    exact h
  · unfold State.writeBy at e
    split at e
    · exact h.writeHandler e
    · exact h.writeHandler e
    · split at e
      · cases e
      · next hfirst => exact (h.writeHandler hfirst).writeHandler e

theorem State.DeferOk.mainOp {s t : State} {op : MainOp} (h : s.DeferOk) (e : s.mainOp op = .ok t) : t.DeferOk := by
  cases op with
  | read n addr =>
    cases e
    exact h.of_waiting (State.waiting_of_offQuiet ((State.quiet_memRead s n addr).addReply _).1)
  | write addr v => exact h.memWrite e
  | iack w =>
    cases e
    exact h

theorem State.DeferOk.coOp {s : State} (h : s.DeferOk) (op : CoOp) : (s.coOp op).DeferOk := by
  cases op <;> exact h

theorem State.DeferOk.vdpOp {s t : State} {op : VdpOp} (h : s.DeferOk) (e : s.vdpOp op = .ok t) : t.DeferOk := by
  cases op with
  | start o => exact h.startDma e
  | slot => exact h.dmaSlot e
  | drain => exact h.fifoDrain e
  | setLines v hl | freeze b | status | slots res period =>
    cases e
    exact h

end Sys2Proof.Machine
end

section
/-! PROOFS. What every operation of a unit of work keeps and what the tick itself does not touch, a whole tick keeps (R271). -/

namespace Sys2Proof.Machine

/-- Everything but what a tick does beside its units of work: the penalties it takes, the latches, the counters and the calls. -/
def State.offTick (s : State) : State :=
  { s with
    penalty := ⟨0, 0⟩
    pendingMain := ⟨false, false⟩
    pendingCo := ⟨false, false⟩
    sched := ⟨0, 0, 0, 0, 0⟩
    inputs := Inputs.empty
    draws := 0
    calls := [] }

section Keeps

variable {P : State → Prop} (hview : ∀ s t : State, P s → t.offTick = s.offTick → P t)

include hview

theorem State.tickMain_keeps (hmain : ∀ (s t : State) (op : MainOp), P s → s.mainOp op = .ok t → P t) {s t : State} (h : P s)
    (e : s.tickMain = .ok t) : P t := by
  unfold State.tickMain at e
  split at e
  · split at e
    · split at e
      · cases e
      · next u hrun =>
        have hunit : P u := State.runMain_keeps hmain (hview s s.askMainUnit h rfl) hrun
        split at e
        · cases e
          exact hunit
        · cases e
          exact hview u _ hunit rfl
    · cases e
      exact hview s _ h rfl
  · cases e
    exact h

theorem State.tickCo_keeps (hco : ∀ (s : State) (op : CoOp), P s → P (s.coOp op)) {s : State} (h : P s) : P s.tickCo := by
  unfold State.tickCo
  split
  · split
    · exact hview _ _ (State.runCo_keeps hco s.coUnit.ops (hview s s.askCoUnit h rfl)) rfl
    · exact hview s _ h rfl
  · exact h

theorem State.tickVdp_keeps (hvdp : ∀ (s t : State) (op : VdpOp), P s → s.vdpOp op = .ok t → P t) {s t : State} {edge : Bool}
    (h : P s) (e : s.tickVdp = .ok (t, edge)) : P t := by
  unfold State.tickVdp at e
  split at e
  · split at e
    · cases e
    · next u hrun =>
      cases e
      exact hview u _ (State.runVdp_keeps hvdp (hview s s.askVdpUnit h rfl) hrun) rfl
  · cases e
    exact h

theorem State.tick_keeps (hmain : ∀ (s t : State) (op : MainOp), P s → s.mainOp op = .ok t → P t)
    (hco : ∀ (s : State) (op : CoOp), P s → P (s.coOp op))
    (hvdp : ∀ (s t : State) (op : VdpOp), P s → s.vdpOp op = .ok t → P t) {s t : State} (h : P s) (e : s.tick = .ok t) : P t := by
  unfold State.tick at e
  split at e
  · cases e
  · next s1 h1 =>
    have hafterMain := State.tickMain_keeps hview hmain h h1
    split at e
    · cases e
      exact hafterMain
    · split at e
      · cases e
      · next s2 edge h2 =>
        cases e
        have hafterVdp := State.tickVdp_keeps hview hvdp (State.tickCo_keeps hview hco hafterMain) h2
        have haudio : s2.tickAudio.offTick = s2.offTick := by
          unfold State.tickAudio
          split <;> rfl
        refine hview _ _ (hview s2 _ hafterVdp haudio) ?_
        cases edge <;> rfl

end Keeps

/-- Settles O59: every effect but a bare deferral keeps the invariant. -/
theorem deferredWritesWaitOnlyWhileBusy : Obligations.DeferredWritesWaitOnlyWhileBusy := by
  intro i s t hbare h hexec
  cases exec_effect hexec with
  | quiet hq => exact h.of_waiting (State.waiting_of_offQuiet hq.1)
  | memWrite addr v hw => exact h.memWrite hw
  | writeRow g a v hg hw => exact h.writeHandler hw
  | port a v hw => exact h.vdpWrite hw
  | regRow r a val hg hr => exact h.of_waiting (State.waiting_of_offReg (State.regWrite_frame s a _))
  | coresetAssert a hg hr => exact h.of_waiting (State.waiting_of_offReg (State.regWrite_frame s a _))
  | mapBanksel a val => exact h.of_waiting (State.waiting_of_offReg (State.mapBanksel_frame s a val))
  | mapWrite a v =>
    exact splitWrite_keeps (P := State.DeferOk)
      (fun u x d hu => hu.of_waiting (State.waiting_of_offCart (State.mapWrite_frame u x d))) a v h
  | sample c d => exact h.of_waiting (State.waiting_of_offEeprom (State.eepStep_frame s c d))
  | fatal | busreqAssert | busreqRelease | coresetRelease | overlayCtrl | latchMain | latchCo | newFrame => exact h
  | sramWrite o a v ho ha => cases v <;> exact h
  | iack cpu w => cases cpu <;> exact h
  | defer e => exact absurd rfl (hbare e)
  | drain hd => exact .of_drain hd
  | start o hs => exact h.startDma hs
  | slot hs => exact h.dmaSlot hs
  | complete hc => exact h.dmaComplete hc
  | push x hroom => exact h.pushFifo x hroom
  | fifoDrain hd => exact h.fifoDrain hd
  | readyEdge hr => exact .of_readyEdge hr
  | tick ht =>
    exact State.tick_keeps (P := State.DeferOk)
      (fun u w hu hsame => hu.of_waiting (congrArg State.waiting hsame : w.offTick.waiting = u.offTick.waiting))
      (fun _ _ _ hu => hu.mainOp) (fun _ op hu => hu.coOp op) (fun _ _ _ hu => hu.vdpOp) h ht
  | reset => exact .of_empty rfl

end Sys2Proof.Machine
end

section
/-! PROOFS. The error record only grows (R6, R16, R289, R290): the log through every shared operation, and the two sticky records. -/

namespace Sys2Proof.Machine

/-- The log is extended, and neither error record is cleared. -/
def State.Grows (s t : State) : Prop :=
  s.log <+: t.log ∧ (s.logicError = true → t.logicError = true) ∧ (s.fatal ≠ none → t.fatal ≠ none)

theorem State.Grows.refl (s : State) : s.Grows s := ⟨List.prefix_refl _, id, id⟩

theorem State.Grows.trans {s t u : State} (h : s.Grows t) (h' : t.Grows u) : s.Grows u :=
  ⟨h.1.trans h'.1, fun hl => h'.2.1 (h.2.1 hl), fun hf => h'.2.2 (h.2.2 hf)⟩

/-- The two sticky error records. -/
def State.errors (s : State) : Bool × Option (EventKind × Addr) := (s.logicError, s.fatal)

theorem State.Grows.of_log {s t : State} (hlog : s.log <+: t.log) (herr : t.errors = s.errors) : s.Grows t := by
  obtain ⟨hlogic, hfatal⟩ := Prod.mk.inj herr
  exact ⟨hlog, fun h => hlogic ▸ h, fun h => hfatal ▸ h⟩

/-- The error records and the log. -/
def State.record (s : State) : List Event × Bool × Option (EventKind × Addr) := (s.log, s.errors)

theorem State.Grows.of_record {s t : State} (h : t.record = s.record) : s.Grows t := by
  obtain ⟨hlog, herr⟩ := Prod.mk.inj h
  exact .of_log (hlog ▸ List.prefix_refl _) herr

theorem State.grows_addLog (s : State) (k : EventKind) (i : EventInfo) : s.Grows (s.addLog k i) :=
  .of_log (List.prefix_append _ _) rfl

theorem State.Grows.of_quiet {s t : State} (h : s.Quiet t) : s.Grows t :=
  .of_log h.2 (congrArg State.errors h.1 : t.offQuiet.errors = s.offQuiet.errors)

/-! ## The cartridge and the registers -/

theorem State.grows_eepStep (s : State) (c d : Bool) : s.Grows (s.eepStep c d) :=
  .of_record (congrArg State.record (State.eepStep_frame s c d) : (s.eepStep c d).offEeprom.record = s.offEeprom.record)

theorem State.grows_sramWrite (s : State) (o : Overlay) (a : Addr) (v : Datum) : s.Grows (s.sramWrite o a v) := by
  cases v <;> exact .of_record rfl

theorem State.grows_mapWrite (s : State) (a : Addr) (v : Datum) : s.Grows (s.mapWrite a v) := by
  unfold State.mapWrite State.batWrite
  split
  · exact State.grows_addLog s _ _
  · exact State.grows_addLog s _ _
  · split
    · exact State.grows_addLog s _ _
    · split_ifs
      · unfold State.devWrite
        split
        · exact State.grows_sramWrite s _ a v
        · exact State.grows_eepStep s _ _
      · exact State.grows_addLog s _ _
      · exact State.grows_addLog s _ _

theorem State.grows_mapBanksel (s : State) (a : Addr) (val : Word) : s.Grows (s.mapBanksel a val) := by
  unfold State.mapBanksel State.batBanksel
  split
  · exact .of_record rfl
  · exact .of_record rfl
  · split
    · exact .of_record rfl
    · exact State.grows_addLog s _ _

theorem State.grows_regWrite (s : State) (a : Addr) (v : Datum) : s.Grows (s.regWrite a v) := by
  unfold State.regWrite
  split
  · exact .of_record rfl
  · unfold State.busreqWrite
    split_ifs
    · exact .of_record rfl
    · exact .of_record rfl
    · exact State.grows_addLog s _ _
  · unfold State.coresetWrite State.coresetAssert
    split_ifs
    · exact .of_record rfl
    · exact State.grows_addLog s _ _
    · exact .of_record rfl
    · exact State.grows_addLog s _ _
  · exact State.grows_mapBanksel s a _
  · exact .of_log (List.prefix_append _ _) rfl
  · exact State.grows_addLog s _ _

/-! ## The VDP and the engine -/

/-- The engine idle again, its queue and operands as they were (R225). -/
def State.endTransfer (s : State) : State :=
  { s with dma := { s.dma with mode := .none, busyFlag := false, slotPhase := false } }

/-- The oldest FIFO entry let through (R227). -/
def State.popFifo (s : State) (x : FifoEntry) (q : List FifoEntry) : State :=
  { s with
    dma := { s.dma with fifoQueue := q }
    calls := s.calls ++ [.vdpMemWriteWord x.target x.addr x.data] }

theorem State.Grows.startDma {s t : State} {o : DmaOperands} (e : s.startDma o = .ok t) : s.Grows t := by
  obtain ⟨-, rfl⟩ := State.startDma_ok.mp e
  exact .of_record rfl

theorem State.Grows.portWrite {s t : State} {p : Port} {w : Word} (e : s.portWrite p w = .ok t) : s.Grows t := by
  unfold State.portWrite at e
  dsimp only at e
  split at e
  · cases e
    cases p <;> exact .of_record rfl
  · obtain ⟨-, rfl⟩ := State.startDma_ok.mp e
    cases p <;> exact .of_record rfl

theorem State.Grows.vdpWrite {s t : State} {x : Addr} {v : Datum} (e : s.vdpWrite x v = .ok t) : s.Grows t := by
  unfold State.vdpWrite State.vdpForward at e
  split at e
  · cases e
    exact State.grows_addLog s _ _
  · cases e
    exact State.grows_addLog s _ _
  all_goals
    split at e
    · exact .portWrite e
    · cases e
      exact .of_record rfl

theorem State.Grows.replay {s t : State} {q : List DeferredWrite} (e : s.replay q = .ok t) : s.Grows t := by
  induction q generalizing s with
  | nil =>
    cases e
    exact .refl _
  | cons x q ih =>
    simp only [State.replay] at e
    split at e
    · cases e
    · next hx => exact (State.Grows.vdpWrite hx).trans (ih e)

theorem State.Grows.drain {s t : State} (e : s.drain = .ok t) : s.Grows t := by
  unfold State.drain at e
  split at e
  · cases e
  · next u hu =>
    cases e
    have hreplayed : s.Grows u := State.Grows.replay (s := { s with deferredQueue := [] }) hu
    rw [State.redeferred_eq]
    exact hreplayed.trans ⟨List.prefix_append _ _, fun hl => by simp [hl], id⟩

theorem State.Grows.readyEdge {s t : State} (e : s.readyEdge = .ok t) : s.Grows t := by
  unfold State.readyEdge at e
  split at e
  · exact .drain e
  · cases e
    exact .refl s

theorem State.Grows.dmaComplete {s t : State} (e : s.dmaComplete = .ok t) : s.Grows t := by
  unfold State.dmaComplete at e
  split at e
  · exact State.Grows.trans (.of_record rfl : s.Grows s.endTransfer) (.readyEdge e)
  · cases e
    exact .refl s

theorem State.Grows.dmaSlot {s t : State} (e : s.dmaSlot = .ok t) : s.Grows t := by
  unfold State.dmaSlot at e
  split at e
  · cases e
    exact .refl s
  · exact State.Grows.trans (.of_record rfl : s.Grows s.fillUnit) (.dmaComplete e)
  · unfold State.slotCopy at e
    split at e
    · exact State.Grows.trans (.of_record rfl : s.Grows s.copyUnit) (.dmaComplete e)
    · cases e
      exact .of_record rfl
  · unfold State.slotM68k at e
    split at e
    · cases e
      exact .of_record rfl
    · have hread : s.Grows s.sourceRead.1 := .of_quiet (State.quiet_memRead s .word (s.dma.sourceAddress.setWidth 32))
      exact (hread.trans (.of_record rfl : s.sourceRead.1.Grows s.m68kUnit)).trans (.dmaComplete e)

theorem State.Grows.fifoDrain {s t : State} (e : s.fifoDrain = .ok t) : s.Grows t := by
  unfold State.fifoDrain at e
  split at e
  · cases e
    exact .refl s
  · next x q _ => exact State.Grows.trans (.of_record rfl : s.Grows (s.popFifo x q)) (.readyEdge e)

/-! ## The bus and the units of work -/

theorem State.grows_ioPut (s : State) (o : Addr) (b : Byte) : s.Grows (s.ioPut o b) := by
  unfold State.ioPut
  split
  · exact State.grows_addLog s _ _
  · exact .of_record rfl

theorem State.grows_coWrite (s : State) (a : Addr) (v : Datum) : s.Grows (s.coWrite a v) := by
  unfold State.coWrite
  dsimp only
  split
  · exact .of_record rfl
  · exact .of_log (List.prefix_append _ _) rfl

theorem State.Grows.writeHandler {s t : State} {g : Region} {a : Addr} {v : Datum} (e : s.writeHandler g a v = .ok t) :
    s.Grows t := by
  cases g <;> simp only [State.writeHandler, Except.ok.injEq] at e
  case vdp => exact .vdpWrite e
  all_goals subst e
  case cart => exact State.grows_mapWrite s a v
  case ram => cases v <;> exact .of_record rfl
  case coCpu => exact State.grows_coWrite s a v
  case io =>
    cases v
    · exact State.grows_ioPut s _ _
    · exact (State.grows_ioPut s _ _).trans (State.grows_ioPut _ _ _)
  case reg => exact State.grows_regWrite s a v
  all_goals exact State.grows_addLog s _ _

theorem State.grows_raiseFatal (s : State) (k : EventKind) (a : Addr) : s.Grows (s.raiseFatal k a) :=
  ⟨List.prefix_refl _, id, fun _ => by simp⟩

theorem State.Grows.memWrite {s t : State} {addr : BitVec 32} {v : BusDatum} (e : s.memWrite addr v = .ok t) : s.Grows t := by
  unfold State.memWrite at e
  dsimp only at e
  split at e
  · cases e
    exact State.grows_raiseFatal s _ _
  · unfold State.writeBy at e
    split at e
    · exact .writeHandler e
    · exact .writeHandler e
    · split at e
      · cases e
      · next hfirst => exact (State.Grows.writeHandler hfirst).trans (.writeHandler e)

theorem State.Grows.mainOp {s t : State} {op : MainOp} (e : s.mainOp op = .ok t) : s.Grows t := by
  cases op with
  | read n addr =>
    cases e
    exact .of_quiet ((State.quiet_memRead s n addr).addReply _)
  | write addr v => exact .memWrite e
  | iack w =>
    cases e
    exact .of_record rfl

theorem State.Grows.vdpOp {s t : State} {op : VdpOp} (e : s.vdpOp op = .ok t) : s.Grows t := by
  cases op with
  | start o => exact .startDma e
  | slot => exact .dmaSlot e
  | drain => exact .fifoDrain e
  | setLines v hl | freeze b | status | slots res period =>
    cases e
    exact .of_record rfl

theorem State.Grows.tick {s t : State} (e : s.tick = .ok t) : s.Grows t :=
  State.tick_keeps (P := s.Grows)
    (fun u w hu hsame => hu.trans (.of_record (congrArg State.record hsame : w.offTick.record = u.offTick.record)))
    (fun _ _ _ hu e => hu.trans (.mainOp e)) (fun _ op hu => hu.trans (by cases op <;> exact .of_record rfl))
    (fun _ _ _ hu e => hu.trans (.vdpOp e)) (.refl s) e

/-- Settles O53: every effect but a reset only adds to the record. -/
theorem errorRecordOnlyGrows : Obligations.ErrorRecordOnlyGrows := by
  intro i s t hexec hreset
  suffices hgrows : s.Grows t from hgrows
  cases exec_effect hexec with
  | quiet hq => exact .of_quiet hq
  | memWrite addr v hw => exact .memWrite hw
  | writeRow g a v hg hw => exact .writeHandler hw
  | fatal k a => exact State.grows_raiseFatal s k a
  | port a v hw => exact .vdpWrite hw
  | regRow r a val hg hr => exact State.grows_regWrite s a _
  | coresetAssert a hg hr => exact State.grows_regWrite s a _
  | mapBanksel a val => exact State.grows_mapBanksel s a val
  | mapWrite a v =>
    exact splitWrite_keeps (P := s.Grows) (fun u x d hu => hu.trans (State.grows_mapWrite u x d)) a v (.refl s)
  | sramWrite o a v ho ha => exact State.grows_sramWrite s o a v
  | sample c d => exact State.grows_eepStep s c d
  | busreqAssert | busreqRelease | coresetRelease | overlayCtrl | defer | latchMain | latchCo | push | newFrame =>
    exact .of_record rfl
  | iack cpu w => cases cpu <;> exact .of_record rfl
  | drain hd => exact .drain hd
  | start o hs => exact .startDma hs
  | slot hs => exact .dmaSlot hs
  | complete hc => exact .dmaComplete hc
  | fifoDrain hd => exact .fifoDrain hd
  | readyEdge hr => exact .readyEdge hr
  | tick ht => exact .tick ht
  | reset => exact absurd rfl hreset

end Sys2Proof.Machine
end

section
/-! PROOFS. Who may change the interrupt-pending records (R14, R292, R318), the ownership pair (R11, R141, R142) and the mapper's
variant (R174): the frames say that most effects cannot, and the few that can are named. -/

namespace Sys2Proof.Machine

/-! ## The pending records -/

/-- The two interrupt-pending records. -/
def State.pendings (s : State) : Pending × Pending := (s.pendingMain, s.pendingCo)

theorem State.pendings_of_offQuiet {s t : State} (h : t.offQuiet = s.offQuiet) : t.pendings = s.pendings :=
  (congrArg State.pendings h : t.offQuiet.pendings = s.offQuiet.pendings)

theorem State.pendings_of_offWrite {s t : State} (h : t.offWrite = s.offWrite) : t.pendings = s.pendings :=
  (congrArg State.pendings h : t.offWrite.pendings = s.offWrite.pendings)

theorem State.pendings_of_offSlot {s t : State} (h : t.offSlot = s.offSlot) : t.pendings = s.pendings :=
  (congrArg State.pendings h : t.offSlot.pendings = s.offSlot.pendings)

theorem State.pendings_of_offReady {s t : State} (h : t.offReady = s.offReady) : t.pendings = s.pendings :=
  State.pendings_of_offSlot (State.offSlot_of_offReady h)

theorem State.pendings_mapWrite (s : State) (a : Addr) (v : Datum) : (s.mapWrite a v).pendings = s.pendings :=
  State.pendings_of_offWrite (State.offWrite_of_offCart (State.mapWrite_frame s a v))

theorem State.pendings_regWrite (s : State) (a : Addr) (v : Datum) : (s.regWrite a v).pendings = s.pendings :=
  State.pendings_of_offWrite (State.offWrite_of_offReg (State.regWrite_frame s a v))

/-- Settles O52: the frame of every effect but a latch, an acknowledge, a tick and a reset holds both records. -/
theorem pendingRecordChanges : Obligations.PendingRecordChanges := by
  intro i s t hexec
  suffices hcases : t.pendings = s.pendings ∨ i = .schTick ∨ i = .hostReset ∨ (t.pendingCo = s.pendingCo ∧ i = .arbIrqMain)
      ∨ (t.pendingMain = s.pendingMain ∧ i = .arbIrqCo) ∨ (t.pendingCo = s.pendingCo ∧ ∃ w, i = .cpuIack .main w)
      ∨ (t.pendingMain = s.pendingMain ∧ ∃ w, i = .cpuIack .co w) by
    simp only [State.pendings, Prod.mk.injEq] at hcases
    tauto
  cases exec_effect hexec with
  | quiet hq => exact .inl (State.pendings_of_offQuiet hq.1)
  | memWrite addr v hw => exact .inl (State.pendings_of_offWrite (State.memWrite_frame hw))
  | writeRow g a v hg hw => exact .inl (State.pendings_of_offWrite (State.writeHandler_frame hw))
  | port a v hw => exact .inl (State.pendings_of_offWrite (State.offWrite_of_offVdp (State.vdpWrite_frame hw)))
  | regRow r a val hg hr => exact .inl (State.pendings_regWrite s a _)
  | coresetAssert a hg hr => exact .inl (State.pendings_regWrite s a _)
  | mapBanksel a val => exact .inl (State.pendings_of_offWrite (State.offWrite_of_offReg (State.mapBanksel_frame s a val)))
  | mapWrite a v =>
    exact .inl (splitWrite_keeps (P := fun x => x.pendings = s.pendings)
      (fun x b d hx => (State.pendings_mapWrite x b d).trans hx) a v rfl)
  | sramWrite o a v ho ha => cases v <;> exact .inl rfl
  | sample c d =>
    exact .inl (State.pendings_of_offWrite (State.offWrite_of_offCart (State.offCart_of_offEeprom (State.eepStep_frame s c d))))
  | fatal | busreqAssert | busreqRelease | coresetRelease | overlayCtrl | defer | push | newFrame => exact .inl rfl
  | start o hs =>
    obtain ⟨-, rfl⟩ := State.startDma_ok.mp hs
    exact .inl rfl
  | drain hd => exact .inl (State.pendings_of_offReady (State.drain_frame hd))
  | slot hs => exact .inl (State.pendings_of_offSlot (State.dmaSlot_frame hs))
  | complete hc => exact .inl (State.pendings_of_offReady (State.dmaComplete_frame hc))
  | fifoDrain hd => exact .inl (State.pendings_of_offReady (State.fifoDrain_frame hd))
  | readyEdge hr => exact .inl (State.pendings_of_offReady (State.readyEdge_frame hr))
  | latchMain => simp
  | latchCo => simp
  | iack cpu w => cases cpu <;> simp
  | tick ht => simp
  | reset => simp

/-! ## The control registers' state -/

/-- The ownership pair and the mapper. -/
def State.control (s : State) : Bool × Bool × MapperState := (s.coCpuBusRequested, s.coCpuResetAsserted, s.mapper)

theorem State.control_of_offQuiet {s t : State} (h : t.offQuiet = s.offQuiet) : t.control = s.control :=
  (congrArg State.control h : t.offQuiet.control = s.offQuiet.control)

theorem State.control_of_offCart {s t : State} (h : t.offCart = s.offCart) : t.control = s.control :=
  (congrArg State.control h : t.offCart.control = s.offCart.control)

theorem State.control_of_offSlot {s t : State} (h : t.offSlot = s.offSlot) : t.control = s.control :=
  (congrArg State.control h : t.offSlot.control = s.offSlot.control)

theorem State.control_of_offReady {s t : State} (h : t.offReady = s.offReady) : t.control = s.control :=
  State.control_of_offSlot (State.offSlot_of_offReady h)

theorem State.control_of_offVdp {s t : State} (h : t.offVdp = s.offVdp) : t.control = s.control :=
  State.control_of_offReady (State.offReady_of_offVdp h)

theorem State.control_sramWrite (s : State) (o : Overlay) (a : Addr) (v : Datum) : (s.sramWrite o a v).control = s.control := by
  cases v <;> rfl

theorem State.control_startDma {s t : State} {o : DmaOperands} (e : s.startDma o = .ok t) : t.control = s.control := by
  obtain ⟨-, rfl⟩ := State.startDma_ok.mp e
  rfl

/-- Outside the REG window no handler's write reaches the registers or the mapper. -/
theorem State.control_writeHandler {s t : State} {g : Region} {a : Addr} {v : Datum} (hg : g ≠ .reg)
    (e : s.writeHandler g a v = .ok t) : t.control = s.control := by
  cases g <;> simp only [State.writeHandler, Except.ok.injEq] at e
  case vdp => exact State.control_of_offVdp (State.vdpWrite_frame e)
  case reg => exact absurd rfl hg
  all_goals subst e
  case cart => exact State.control_of_offCart (State.mapWrite_frame s a v)
  case ram => cases v <;> rfl
  case coCpu =>
    unfold State.coWrite
    dsimp only
    split <;> rfl
  case io =>
    cases v
    · simp only [State.ioWrite]
      rw [State.ioPut_frame]
      rfl
    · simp only [State.ioWrite]
      rw [State.ioPut_frame, State.ioPut_frame]
      rfl
  all_goals rfl

/-- A bus write either leaves registers and mapper alone, or is one or two writes in the REG window. -/
theorem State.memWrite_control {s t : State} {addr : BitVec 32} {v : BusDatum} (e : s.memWrite addr v = .ok t) :
    t.control = s.control
    ∨ s.region (mask24 addr) = .reg ∧ t = splitWrite State.regWrite s (mask24 addr) v := by
  unfold State.memWrite at e
  dsimp only at e
  split at e
  · cases e
    exact .inl rfl
  · by_cases hg : s.region (mask24 addr) = .reg
    · rw [hg] at e
      cases v <;> cases e <;> exact .inr ⟨hg, rfl⟩
    · left
      unfold State.writeBy at e
      split at e
      · exact State.control_writeHandler hg e
      · exact State.control_writeHandler hg e
      · split at e
        · cases e
        · next hfirst => exact (State.control_writeHandler hg e).trans (State.control_writeHandler hg hfirst)

/-- What an operation may do to the registers and the mapper. -/
inductive ControlEffect : Instr → State → State → Prop
  | same {i s t} (h : t.control = s.control) : ControlEffect i s t
  | memWrite {s} (addr : BitVec 32) (v : BusDatum) (hg : s.region (mask24 addr) = .reg) :
      ControlEffect (.memWrite addr v) s (splitWrite State.regWrite s (mask24 addr) v)
  | regWr {s} (a : Addr) (v : Datum) (hg : s.region a = .reg) : ControlEffect (.regWr a v) s (s.regWrite a v)
  | regRow {s} (r : RegSel) (a : Addr) (val : Word) (hg : s.region a = .reg) (hr : regSelOf s.cfg a = r) :
      ControlEffect (regRow r a val) s (s.regWrite a (.word val))
  | coresetAssert {s} (a : Addr) (hg : s.region a = .reg) (hr : regSelOf s.cfg a = .coreset) :
      ControlEffect (.coresetAssert a) s (s.regWrite a (.word 0#16))
  | busreqAssert {s} (val : Word) : ControlEffect (.busreqAssert val) s (s.setBusreq true)
  | busreqRelease {s} : ControlEffect .busreqRelease s (s.setBusreq false)
  | coresetRelease {i s} (hi : i = .coresetRelease ∨ i = .coresetReleaseAlt) : ControlEffect i s s.coresetRelease
  | mapBanksel {i s} (a : Addr) (val : Word) : ControlEffect i s (s.mapBanksel a val)
  | overlayCtrl {i s} (val : Word) : ControlEffect i s (s.setOverlayMode val)
  | tick {s t} (h : s.tick = .ok t) : ControlEffect .schTick s t
  | reset {s} : ControlEffect .hostReset s s.hostReset

theorem Effect.controlEffect {i : Instr} {s t : State} (h : Effect i s t) : ControlEffect i s t := by
  cases h with
  | memWrite addr v hw =>
    obtain hsame | ⟨hg, rfl⟩ := State.memWrite_control hw
    · exact .same hsame
    · exact .memWrite addr v hg
  | writeRow g a v hg hw =>
    by_cases hreg : g = .reg
    · subst hreg
      cases hw
      exact .regWr a v hg
    · exact .same (State.control_writeHandler hreg hw)
  | regRow r a val hg hr => exact .regRow r a val hg hr
  | coresetAssert a hg hr => exact .coresetAssert a hg hr
  | busreqAssert val => exact .busreqAssert val
  | busreqRelease => exact .busreqRelease
  | coresetRelease hi => exact .coresetRelease hi
  | mapBanksel a val => exact .mapBanksel a val
  | overlayCtrl val => exact .overlayCtrl val
  | tick ht => exact .tick ht
  | reset => exact .reset
  | quiet hq => exact .same (State.control_of_offQuiet hq.1)
  | port a v hw => exact .same (State.control_of_offVdp (State.vdpWrite_frame hw))
  | mapWrite a v =>
    exact .same (splitWrite_keeps (P := fun x => x.control = s.control)
      (fun x b d hx => (State.control_of_offCart (State.mapWrite_frame x b d)).trans hx) a v rfl)
  | sramWrite o a v ho ha => exact .same (State.control_sramWrite s o a v)
  | sample c d => exact .same (State.control_of_offCart (State.offCart_of_offEeprom (State.eepStep_frame s c d)))
  | fatal | defer | latchMain | latchCo | push | newFrame => exact .same rfl
  | iack cpu w => cases cpu <;> exact .same rfl
  | start o hs => exact .same (State.control_startDma hs)
  | drain hd => exact .same (State.control_of_offReady (State.drain_frame hd))
  | slot hs => exact .same (State.control_of_offSlot (State.dmaSlot_frame hs))
  | complete hc => exact .same (State.control_of_offReady (State.dmaComplete_frame hc))
  | fifoDrain hd => exact .same (State.control_of_offReady (State.fifoDrain_frame hd))
  | readyEdge hr => exact .same (State.control_of_offReady (State.readyEdge_frame hr))

/-! ## The ownership pair -/

theorem State.mapBanksel_ownership (s : State) (a : Addr) (val : Word) :
    (s.mapBanksel a val).coCpuBusRequested = s.coCpuBusRequested ∧ (s.mapBanksel a val).coCpuResetAsserted = s.coCpuResetAsserted := by
  unfold State.mapBanksel State.batBanksel
  split
  · exact ⟨rfl, rfl⟩
  · exact ⟨rfl, rfl⟩
  · split <;> exact ⟨rfl, rfl⟩

/-- Only BUSREQ's write changes the request. -/
theorem State.regWrite_busRequested {s : State} {a : Addr} (hr : regSelOf s.cfg a ≠ .busreq) (v : Datum) :
    (s.regWrite a v).coCpuBusRequested = s.coCpuBusRequested := by
  unfold State.regWrite
  split
  · rfl
  · next hsel => exact absurd hsel hr
  · unfold State.coresetWrite State.coresetAssert
    split_ifs <;> rfl
  · exact (State.mapBanksel_ownership s a _).1
  · rfl
  · rfl

/-- Only CORESET's write changes the reset line. -/
theorem State.regWrite_resetAsserted {s : State} {a : Addr} (hr : regSelOf s.cfg a ≠ .coreset) (v : Datum) :
    (s.regWrite a v).coCpuResetAsserted = s.coCpuResetAsserted := by
  unfold State.regWrite
  split
  · rfl
  · unfold State.busreqWrite
    split_ifs <;> rfl
  · next hsel => exact absurd hsel hr
  · exact (State.mapBanksel_ownership s a _).2
  · rfl
  · rfl

theorem State.cfg_regWrite (s : State) (a : Addr) (v : Datum) : (s.regWrite a v).cfg = s.cfg :=
  (congrArg State.cfg (State.regWrite_frame s a v) : (s.regWrite a v).offReg.cfg = s.offReg.cfg)

/-- A field that only register `r` changes, a bus write in the REG window changes only where it reaches `r`. -/
theorem splitWrite_regWrite_reaches {f : State → Bool} {r : RegSel}
    (hf : ∀ (s : State) (a : Addr) (v : Datum), regSelOf s.cfg a ≠ r → f (s.regWrite a v) = f s) {s : State} {a : Addr} {v : BusDatum}
    (hne : f (splitWrite State.regWrite s a v) ≠ f s) : reachesReg s.cfg r a v := by
  by_contra hmiss
  cases v with
  | byte b => exact hne (hf s a _ hmiss)
  | word w => exact hne (hf s a _ hmiss)
  | long l =>
    obtain ⟨hfirst, hsecond⟩ := not_or.mp hmiss
    refine hne ((hf _ _ _ ?_).trans (hf s a _ hfirst))
    rw [State.cfg_regWrite]
    exact hsecond

/-- Settles O28: of the effects on the registers, each bit has its register's own and the reset. -/
theorem ownershipChanges : Obligations.OwnershipChanges := by
  intro i s t hexec
  cases (exec_effect hexec).controlEffect with
  | same h =>
    obtain ⟨hreq, hrest⟩ := Prod.mk.inj h
    obtain ⟨hreset, -⟩ := Prod.mk.inj hrest
    exact ⟨fun hne => absurd hreq hne, fun hne => absurd hreset hne⟩
  | memWrite addr v hg =>
    refine ⟨fun hne => .inl ⟨addr, v, rfl, hg, ?_⟩, fun hne => .inl ⟨addr, v, rfl, hg, ?_⟩⟩
    · exact splitWrite_regWrite_reaches (fun _ _ v hr => State.regWrite_busRequested hr v) hne
    · exact splitWrite_regWrite_reaches (fun _ _ v hr => State.regWrite_resetAsserted hr v) hne
  | regWr a v hg =>
    refine ⟨fun hne => .inr (.inl ⟨a, v, rfl, hg, ?_⟩), fun hne => .inr (.inl ⟨a, v, rfl, hg, ?_⟩)⟩
    · exact by_contra fun hr => hne (State.regWrite_busRequested hr v)
    · exact by_contra fun hr => hne (State.regWrite_resetAsserted hr v)
  | regRow r a val hg hr =>
    refine ⟨fun hne => .inr (.inr (.inl ⟨a, val, ?_⟩)), fun hne => .inr (.inr (.inl ⟨a, val, ?_⟩))⟩
    · have hsel : regSelOf s.cfg a = .busreq := by_contra fun h => hne (State.regWrite_busRequested h _)
      obtain rfl := hr.symm.trans hsel
      exact ⟨rfl, hg, hsel⟩
    · have hsel : regSelOf s.cfg a = .coreset := by_contra fun h => hne (State.regWrite_resetAsserted h _)
      obtain rfl := hr.symm.trans hsel
      exact ⟨rfl, hg, hsel⟩
  | coresetAssert a hg hr =>
    refine ⟨fun hne => absurd (State.regWrite_busRequested (by simp [hr]) _) hne, fun _ => ?_⟩
    exact .inr (.inr (.inr (.inl ⟨a, rfl, hg, hr⟩)))
  | busreqAssert val => exact ⟨fun _ => by simp, fun hne => absurd rfl hne⟩
  | busreqRelease => exact ⟨fun _ => by simp, fun hne => absurd rfl hne⟩
  | coresetRelease hi => exact ⟨fun hne => absurd rfl hne, fun _ => by tauto⟩
  | mapBanksel a val =>
    obtain ⟨hreq, hreset⟩ := State.mapBanksel_ownership s a val
    exact ⟨fun hne => absurd hreq hne, fun hne => absurd hreset hne⟩
  | overlayCtrl val => exact ⟨fun hne => absurd rfl hne, fun hne => absurd rfl hne⟩
  | tick ht => exact ⟨fun _ => by simp, fun _ => by simp⟩
  | reset => exact ⟨fun _ => by simp, fun _ => by simp⟩

/-! ## The variant -/

/-- The variant stays, or is upgraded. -/
def State.Upgrades (s t : State) : Prop :=
  t.mapper.variant = s.mapper.variant ∨ s.mapper.variant = .linear ∧ t.mapper.variant = .paged

theorem State.Upgrades.refl (s : State) : s.Upgrades s := .inl rfl

theorem State.Upgrades.trans {s t u : State} (h : s.Upgrades t) (h' : t.Upgrades u) : s.Upgrades u := by
  unfold State.Upgrades at *
  grind

theorem State.Upgrades.of_control {s t : State} (h : t.control = s.control) : s.Upgrades t := by
  obtain ⟨-, hrest⟩ := Prod.mk.inj h
  obtain ⟨-, hmapper⟩ := Prod.mk.inj hrest
  exact .inl (by rw [hmapper])

theorem State.upgrades_mapBanksel (s : State) (a : Addr) (val : Word) : s.Upgrades (s.mapBanksel a val) := by
  unfold State.mapBanksel State.batBanksel
  split
  · next hv => exact .inr ⟨hv, rfl⟩
  · exact .inl rfl
  · split <;> exact .inl rfl

theorem State.upgrades_regWrite (s : State) (a : Addr) (v : Datum) : s.Upgrades (s.regWrite a v) := by
  unfold State.regWrite
  split
  · exact .inl rfl
  · unfold State.busreqWrite
    split_ifs <;> exact .inl rfl
  · unfold State.coresetWrite State.coresetAssert
    split_ifs <;> exact .inl rfl
  · exact State.upgrades_mapBanksel s a _
  · exact .inl rfl
  · exact .inl rfl

theorem State.upgrades_regWrites (s : State) (a : Addr) (v : BusDatum) : s.Upgrades (splitWrite State.regWrite s a v) :=
  splitWrite_keeps (P := s.Upgrades) (fun u x d hu => hu.trans (State.upgrades_regWrite u x d)) a v (.refl s)

theorem State.Upgrades.mainOp {s t : State} {op : MainOp} (e : s.mainOp op = .ok t) : s.Upgrades t := by
  cases op with
  | read n addr =>
    cases e
    exact .of_control (State.control_of_offQuiet ((State.quiet_memRead s n addr).addReply _).1)
  | write addr v =>
    obtain hsame | ⟨-, rfl⟩ := State.memWrite_control e
    · exact .of_control hsame
    · exact State.upgrades_regWrites s _ v
  | iack w =>
    cases e
    exact .inl rfl

theorem State.control_vdpOp {s t : State} {op : VdpOp} (e : s.vdpOp op = .ok t) : t.control = s.control := by
  cases op with
  | start o => exact State.control_startDma e
  | slot => exact State.control_of_offSlot (State.dmaSlot_frame e)
  | drain => exact State.control_of_offReady (State.fifoDrain_frame e)
  | setLines v hl | freeze b | status | slots res period =>
    cases e
    rfl

theorem State.Upgrades.tick {s t : State} (e : s.tick = .ok t) : s.Upgrades t :=
  State.tick_keeps (P := s.Upgrades)
    (fun u w hu hsame => hu.trans (.of_control (congrArg State.control hsame : w.offTick.control = u.offTick.control)))
    (fun _ _ _ hu e => hu.trans (.mainOp e)) (fun _ op hu => hu.trans (by cases op <;> exact .inl rfl))
    (fun _ _ _ hu e => hu.trans (.of_control (State.control_vdpOp e))) (.refl s) e

/-- A control-register write copies no data (R174). -/
theorem State.data_of_offReg {s t : State} (h : t.offReg = s.offReg) :
    t.cfg = s.cfg ∧ t.eeprom = s.eeprom ∧ t.sram = s.sram ∧ t.eep = s.eep := by
  rw [State.of_offReg h]
  exact ⟨rfl, rfl, rfl, rfl⟩

theorem State.offReg_regWrites (s : State) (a : Addr) (v : BusDatum) : (splitWrite State.regWrite s a v).offReg = s.offReg :=
  splitWrite_keeps (P := fun x => x.offReg = s.offReg) (fun x b d hx => (State.regWrite_frame x b d).trans hx) a v rfl

/-- An effect on the registers other than a tick and a reset is an upgrade of the variant, or none, that copies no data. -/
theorem ControlEffect.upgrades {i : Instr} {s t : State} (h : ControlEffect i s t) (hreset : i ≠ .hostReset) :
    s.Upgrades t ∧ (i ≠ .schTick → t.control = s.control ∨ t.offReg = s.offReg) := by
  cases h with
  | same h => exact ⟨.of_control h, fun _ => .inl h⟩
  | memWrite addr v hg => exact ⟨State.upgrades_regWrites s _ v, fun _ => .inr (State.offReg_regWrites s _ v)⟩
  | regWr a v hg => exact ⟨State.upgrades_regWrite s a v, fun _ => .inr (State.regWrite_frame s a v)⟩
  | regRow r a val hg hr => exact ⟨State.upgrades_regWrite s a _, fun _ => .inr (State.regWrite_frame s a _)⟩
  | coresetAssert a hg hr => exact ⟨State.upgrades_regWrite s a _, fun _ => .inr (State.regWrite_frame s a _)⟩
  | mapBanksel a val => exact ⟨State.upgrades_mapBanksel s a val, fun _ => .inr (State.mapBanksel_frame s a val)⟩
  | busreqAssert | busreqRelease | coresetRelease | overlayCtrl => exact ⟨.inl rfl, fun _ => .inr rfl⟩
  | tick ht => exact ⟨.tick ht, fun hne => absurd rfl hne⟩
  | reset => exact absurd rfl hreset

/-- Settles O36: a changed variant is an upgrade, and what upgrades outside a tick is a register write. -/
theorem variantChanges : Obligations.VariantChanges := by
  intro i s t hexec hreset hne
  obtain ⟨hupgrade, hdata⟩ := (exec_effect hexec).controlEffect.upgrades hreset
  obtain ⟨hlinear, hpaged⟩ := hupgrade.resolve_left hne
  refine ⟨hlinear, hpaged, fun htick => State.data_of_offReg ((hdata htick).resolve_left fun hsame => hne ?_)⟩
  obtain ⟨-, hrest⟩ := Prod.mk.inj hsame
  obtain ⟨-, hmapper⟩ := Prod.mk.inj hrest
  rw [hmapper]

end Sys2Proof.Machine
end

section
/-! PROOFS. The step and the session: what a step fetches and refuses (R7, R270, R289, R313), the frame boundary (R275), the reset
(R310) and closing (R175). -/

namespace Sys2Proof.Machine

/-! ## What the step fetches -/

theorem State.fetch_record {s : State} {r : List Byte} {rest : List (List Byte)} {i : Instr} (hinbox : s.inbox = r :: rest)
    (hi : decode r = .ok i) : s.fetch = s.admitted i { s with inbox := rest } := by
  simp only [State.fetch, hinbox, hi]

theorem State.fetch_empty {s : State} (hinbox : s.inbox = []) : s.fetch = s.admitted .schTick s := by
  simp only [State.fetch, hinbox]

theorem afterFatal_iff (i : Instr) : afterFatal i = true ↔ i = .hostReset ∨ i = .hostClose := by
  cases i <;> simp [afterFatal]

theorem State.admitted_open {s : State} {i : Instr} (hclosed : s.closed = false)
    (hfatal : s.fatal = none ∨ i = .hostReset ∨ i = .hostClose) (t : State) : s.admitted i t = .ok (i, t) := by
  have hnot : ¬ (s.fatal.isSome = true ∧ afterFatal i = false) := by
    rintro ⟨hsome, hafter⟩
    obtain hnone | hhost := hfatal
    · simp [hnone] at hsome
    · simp [(afterFatal_iff i).mpr hhost] at hafter
  rw [State.admitted, if_neg (ne_true_of_eq_false hclosed), if_neg hnot]

theorem State.admitted_closed {s : State} (hclosed : s.closed = true) (i : Instr) (t : State) :
    s.admitted i t = .error .sessionClosed := if_pos hclosed

theorem State.admitted_fatal {s : State} {i : Instr} (hclosed : s.closed = false) (hfatal : s.fatal ≠ none)
    (hreset : i ≠ .hostReset) (hclose : i ≠ .hostClose) (t : State) : s.admitted i t = .error .sessionFatal := by
  have hafter : afterFatal i = false := by
    rw [Bool.eq_false_iff, ne_eq, afterFatal_iff, not_or]
    exact ⟨hreset, hclose⟩
  rw [State.admitted, if_neg (ne_true_of_eq_false hclosed), if_pos ⟨Option.isSome_iff_ne_none.mpr hfatal, hafter⟩]

theorem step_of_fetch {s t : State} {i : Instr} (h : s.fetch = .ok (i, t)) : step s = exec i t := by rw [step, h]

theorem step_of_refusal {s : State} {r : Refusal} (h : s.fetch = .error r) : step s = .refused r := by rw [step, h]

theorem decode_of_decodeTableWord {nbits w : Nat} {i : Instr} (h : decodeTableWord nbits w = some i) :
    decode (tableRecord nbits w) = .ok i := by
  unfold decodeTableWord at h
  split at h
  · next hi => rw [hi, Option.some.inj h]
  · cases h

/-- Settles O6: an admitted record is fetched with its operation, a presented table word is the record at the head of the inbox, and an
empty inbox fetches the tick. -/
theorem stepRunsTheDecodedOperation : Obligations.StepRunsTheDecodedOperation := by
  refine ⟨fun s r rest i hinbox hi hclosed hfatal => ?_, fun s nbits w i hi hclosed hfatal => ?_, fun s hinbox hclosed hfatal => ?_⟩
  · exact step_of_fetch ((State.fetch_record hinbox hi).trans (State.admitted_open hclosed hfatal _))
  · have hfetch : (s.withFetchWord nbits w).fetch = (s.withFetchWord nbits w).admitted i s :=
      State.fetch_record (rest := s.inbox) rfl (decode_of_decodeTableWord hi)
    exact step_of_fetch (hfetch.trans (State.admitted_open hclosed (.inl hfatal) s))
  · exact step_of_fetch ((State.fetch_empty hinbox).trans (State.admitted_open hclosed (.inl hfatal) s))

/-- Settles O7: the fetch answers with the refusal of a record that does not decode, of a closed session, and of a fatal error
outstanding, the tick among the operations it refuses. -/
theorem stepRefusesAfterFatalOrClose : Obligations.StepRefusesAfterFatalOrClose := by
  refine ⟨fun s r rest e hinbox he => ?_, fun s r rest i hinbox hi hclosed => ?_,
    fun s r rest i hinbox hi hclosed hfatal hreset hclose => ?_, fun s hinbox hclosed => ?_, fun s hinbox hclosed hfatal => ?_⟩
  · exact step_of_refusal (by simp only [State.fetch, hinbox, he])
  · exact step_of_refusal ((State.fetch_record hinbox hi).trans (State.admitted_closed hclosed i _))
  · exact step_of_refusal ((State.fetch_record hinbox hi).trans (State.admitted_fatal hclosed hfatal hreset hclose _))
  · exact step_of_refusal ((State.fetch_empty hinbox).trans (State.admitted_closed hclosed _ s))
  · have hrefused := State.admitted_fatal (i := .schTick) hclosed hfatal (by decide) (by decide) s
    exact step_of_refusal ((State.fetch_empty hinbox).trans hrefused)

/-! ## The frame boundary and the reset -/

/-- Settles O56: the rebasing subtracts the elapsed ticks, which no counter is below while no device is overdue. -/
theorem frameBoundary : Obligations.FrameBoundary := by
  refine fun s => ⟨rfl, s.newFrame, rfl, rfl, fun hsched => ?_⟩
  obtain ⟨hmain, hco, hvdp, haudio⟩ := hsched
  refine ⟨⟨Nat.zero_le _, Nat.zero_le _, Nat.zero_le _, Nat.zero_le _⟩, ?_, ?_, ?_, ?_⟩
  · exact Nat.sub_add_cancel hmain
  · exact Nat.sub_add_cancel hco
  · exact Nat.sub_add_cancel hvdp
  · exact Nat.sub_add_cancel haudio

theorem MapperState.reset_eq (cfg : BusConfig) : MapperState.reset cfg =
    { variant := if cfg.overlay.isSome then .battery else .linear
      bankRegister := cfg.bankWindowBase / cfg.pageSize
      overlayMode := (cfg.overlay.map Overlay.resetMode).getD .disabled } := by
  cases h : cfg.overlay <;> simp [MapperState.reset, h]

/-- Settles O57: the reset writes every field; the mapper's reset value is the one that needs a case split, on the overlay. -/
theorem hostReset : Obligations.HostReset := by
  intro s
  rw [← MapperState.reset_eq]
  rfl

/-! ## Closing -/

theorem State.batteryImage_sram {s : State} {o : Overlay} (ho : s.cfg.overlay = some o) (hkind : o.kind = .sram) :
    s.batteryImage = .sramImage (storeImage s.sramByte (BusConfig.sramSize o)) := by
  simp only [State.batteryImage, ho, hkind]

theorem State.batteryImage_eeprom {s : State} {o : Overlay} (ho : s.cfg.overlay = some o) (hkind : o.kind = .eeprom) :
    s.batteryImage = .eepImage (storeImage s.eepByte s.cfg.eepromSize) := by
  simp only [State.batteryImage, ho, hkind]

theorem State.createSession_sram {cfg : BusConfig} {o : Overlay} (ho : cfg.overlay = some o) (hkind : o.kind = .sram)
    (bytes : List Byte) : State.createSession cfg (some bytes)
      = { State.create cfg with sram := imageCells 0 (bytes.take (BusConfig.sramSize o)) } := by
  simp only [State.createSession, ho, hkind]

theorem State.createSession_eeprom {cfg : BusConfig} {o : Overlay} (ho : cfg.overlay = some o) (hkind : o.kind = .eeprom)
    (bytes : List Byte) : State.createSession cfg (some bytes)
      = { State.create cfg with eep := imageCells 0 (bytes.take cfg.eepromSize) } := by
  simp only [State.createSession, ho, hkind]

/-- Settles O37: both rows close the session and hand over the image of the store present; the image of a store filled from `bytes` is
`bytes`. -/
theorem closeSession : Obligations.CloseSession := by
  refine ⟨fun s => ⟨s.batteryImage, s.close, rfl, rfl, rfl, fun o ho hkind => ?_, fun o ho hkind => ?_, fun ho => ?_⟩,
    fun cfg o bytes ho => ⟨fun hkind hlen => ⟨_, rfl, ?_⟩, fun hkind hlen => ⟨_, rfl, ?_⟩⟩⟩
  · exact State.batteryImage_sram ho hkind
  · exact State.batteryImage_eeprom ho hkind
  · simp only [State.batteryImage, ho]
  · rw [State.createSession_sram ho hkind]
    refine congrArg (fun r => [r]) ((State.batteryImage_sram ho hkind).trans (congrArg Reply.sramImage ?_))
    exact storeImage_image hlen Config.sramImage
  · rw [State.createSession_eeprom ho hkind]
    refine congrArg (fun r => [r]) ((State.batteryImage_eeprom ho hkind).trans (congrArg Reply.eepImage ?_))
    exact storeImage_image hlen Config.eepImage

end Sys2Proof.Machine
end

section
/-! PROOFS. The region rows (R104 to R113): RAM, the co-CPU window, the IO ports and the control registers. Each row at its region is its
handler; the handler's cases are said once. -/

namespace Sys2Proof.Machine

/-! ## A row at its region is its handler -/

/-- A selected row whose meaning answers (R100). -/
theorem whenSelected_answered {g h : Region} (hg : g = h) (r : State × Datum) :
    whenSelected (g == h) (answered r) = .next (r.1.addReply (.data r.2.toBus)) :=
  whenSelected_next.mpr ⟨beq_iff_eq.mpr hg, rfl⟩

/-- The row of a region that reads is the region's handler; VDP.RD has its validity test besides. -/
theorem exec_readRow {s : State} {a : Addr} (hvalid : s.region a = .vdp → vdpValid s.cfg a = true) (n : Width) :
    exec (readRow (s.region a) n a) s
      = .next ((s.readHandler (s.region a) n a).1.addReply (.data (s.readHandler (s.region a) n a).2.toBus)) := by
  cases h : s.region a
  case vdp =>
    have hrow : exec (.vdpRd n a) s = answered (s.vdpRead n a) := (if_pos (beq_iff_eq.mpr h)).trans (if_pos (hvalid h))
    exact hrow
  all_goals exact whenSelected_answered h _

/-- The row of a region that writes is the region's handler. -/
theorem exec_writeRow {s : State} {a : Addr} (hvalid : s.region a = .vdp → vdpValid s.cfg a = true) (v : Datum) :
    exec (writeRow (s.region a) a v) s = ofExcept (s.writeHandler (s.region a) a v) := by
  cases h : s.region a
  case vdp => exact (if_pos (beq_iff_eq.mpr h)).trans (if_pos (hvalid h))
  all_goals exact if_pos (beq_iff_eq.mpr h)

/-! ## RAM and the co-CPU window -/

theorem exec_ramWr_of_ram {s : State} {a : Addr} (h : s.region a = .ram) (v : Datum) :
    exec (.ramWr a v) s = .next (s.ramWrite a v) := if_pos (beq_iff_eq.mpr h)

theorem State.ramWrite_frame (s : State) (a : Addr) (v : Datum) : s.ramWrite a v = { s with ram := (s.ramWrite a v).ram } := by
  cases v <;> rfl

/-- Settles O8: the rows at a RAM address are the handlers, whose bytes and frame the laws give. -/
theorem ramAccess : Obligations.RamAccess := by
  intro s a v hram i j
  have hnext : ramIndexNext a = j := ramIndexNext_eq a
  refine ⟨exec_ramRd_of_ram hram .byte, ?_, s.ramWrite a v, exec_ramWr_of_ram hram v, s.ramWrite_frame a v, fun k => ?_⟩
  · rw [← hnext]
    exact exec_ramRd_of_ram hram .word
  · rw [← hnext]
    exact s.ramByte_ramWrite a v k

theorem State.coAccess_iff {s : State} : s.coAccess = true ↔ s.coCpuBusRequested = true ∧ s.coCpuResetAsserted = false := by
  simp [State.coAccess]

theorem State.coAccess_false_iff {s : State} :
    s.coAccess = false ↔ s.coCpuBusRequested = false ∨ s.coCpuResetAsserted = true := by
  rw [State.coAccess, Bool.and_eq_false_iff, Bool.not_eq_false']

theorem State.coRead_of_access {s : State} (h : s.coAccess = true) (n : Width) (a : Addr) : s.coRead n a =
    (s.addPenalty .main s.cfg.coPenalty,
      match n with
      | .byte => .byte (s.comemByte (comemIndex s.cfg a))
      | .word => .word (wordOf (s.comemByte (comemIndex s.cfg a)) (s.comemByte (comemIndex s.cfg a)))) := by
  cases n <;> exact if_pos h

theorem State.coRead_of_noAccess {s : State} (h : s.coAccess = false) (n : Width) (a : Addr) : s.coRead n a =
    ((s.addPenalty .main s.cfg.coPenalty).addLog .coNoOwnership (.addr a), zeros n) :=
  if_neg (ne_true_of_eq_false h)

theorem State.coWrite_of_access {s : State} (h : s.coAccess = true) (a : Addr) (v : Datum) : s.coWrite a v =
    { s.addPenalty .main s.cfg.coPenalty with comem := s.comem.write (comemIndex s.cfg a) (coStored v) } := if_pos h

theorem State.coWrite_of_noAccess {s : State} (h : s.coAccess = false) (a : Addr) (v : Datum) : s.coWrite a v =
    (s.addPenalty .main s.cfg.coPenalty).addLog .coNoOwnership (.addr a) := if_neg (ne_true_of_eq_false h)

/-- Settles O11: the handler with and without access, at both widths. -/
theorem coWindowRead : Obligations.CoWindowRead := by
  intro s a hco
  have hrow : ∀ n, exec (.coRd n a) s = answered (s.coRead n a) := fun n => if_pos (beq_iff_eq.mpr hco)
  refine ⟨fun hreq hrun => ?_, fun hdenied => ?_⟩
  · have haccess : s.coAccess = true := State.coAccess_iff.mpr ⟨hreq, hrun⟩
    rw [hrow, hrow, State.coRead_of_access haccess, State.coRead_of_access haccess]
    exact ⟨rfl, rfl⟩
  · have haccess : s.coAccess = false := State.coAccess_false_iff.mpr hdenied
    rw [hrow, hrow, State.coRead_of_noAccess haccess, State.coRead_of_noAccess haccess]
    exact ⟨rfl, rfl⟩

/-- Settles O12: with access the law of the stored byte, without it the log entry. -/
theorem coWindowWrite : Obligations.CoWindowWrite := by
  intro s a v hco
  have hrow : exec (.coWr a v) s = .next (s.coWrite a v) := if_pos (beq_iff_eq.mpr hco)
  refine ⟨fun hreq hrun => ⟨s.coWrite a v, hrow, ?_, fun i => ?_⟩, fun hdenied => ?_⟩
  · rw [State.coWrite_of_access (State.coAccess_iff.mpr ⟨hreq, hrun⟩)]
    rfl
  · rw [State.comemByte_coWrite]
    simp only [State.coAccess_iff.mpr ⟨hreq, hrun⟩, true_and]
    cases v <;> rfl
  · rw [hrow, State.coWrite_of_noAccess (State.coAccess_false_iff.mpr hdenied)]
    rfl

/-! ## The IO ports -/

theorem isVersion_iff (o : Addr) : isVersion o = true ↔ o ≤ 1#24 := by
  simp only [isVersion, Bool.or_eq_true, beq_iff_eq]
  bv_omega

theorem isVersion_false_iff (o : Addr) : isVersion o = false ↔ 2#24 ≤ o := by
  rw [Bool.eq_false_iff, ne_eq, isVersion_iff]
  bv_omega

theorem State.ioByte_readsByte (s : State) (o : Addr) : IoReadsByte s o (s.ioByte o).1 (s.ioByte o).2 := by
  unfold State.ioByte
  cases h : isVersion o
  · exact .inr ⟨(isVersion_false_iff o).mp h, rfl, rfl⟩
  · exact .inl ⟨(isVersion_iff o).mp h, rfl, rfl⟩

theorem State.ioPut_writesByte (s : State) (o : Addr) (b : Byte) : IoWritesByte s o b (s.ioPut o b) := by
  unfold State.ioPut
  cases h : isVersion o
  · exact .inr ⟨(isVersion_false_iff o).mp h, rfl⟩
  · exact .inl ⟨(isVersion_iff o).mp h, rfl⟩

/-- Settles O13: a BYTE is one byte of its offset, a WORD two, each as the version register or the collaborator gives it. -/
theorem ioPorts : Obligations.IoPorts := by
  intro s a hio
  have hread : ∀ n, exec (.ioRd n a) s = answered (s.ioRead n a) := fun n => if_pos (beq_iff_eq.mpr hio)
  have hwrite : ∀ v, exec (.ioWr a v) s = .next (s.ioWrite a v) := fun v => if_pos (beq_iff_eq.mpr hio)
  refine ⟨⟨_, _, s.ioByte_readsByte _, hread .byte⟩, ⟨_, _, _, _, s.ioByte_readsByte _, State.ioByte_readsByte _ _, hread .word⟩,
    fun b => ⟨_, s.ioPut_writesByte _ b, hwrite _⟩, fun w => ⟨_, _, s.ioPut_writesByte _ _, State.ioPut_writesByte _ _ _, hwrite _⟩⟩

/-! ## The control registers -/

/-- A register's row at its register is the write of its word. -/
theorem exec_regRow_of_selected {s : State} {a : Addr} {r : RegSel} (hreg : s.region a = .reg) (hsel : regSelOf s.cfg a = r)
    (val : Word) : exec (regRow r a val) s = .next (s.regWrite a (.word val)) := by
  rw [exec_regRow, State.selectsReg_iff.mpr ⟨hreg, hsel⟩, whenSelected_true]

/-- A BYTE reaches its register zero-extended (R148). -/
theorem State.regWrite_zext (s : State) (a : Addr) (v : Datum) : s.regWrite a v = s.regWrite a (.word v.zext16) := rfl

/-- Settles O23: each row is its register's arm of the write. -/
theorem latchRegisters : Obligations.LatchRegisters := by
  intro s a val hreg
  refine ⟨fun hsel => ?_, fun hsel => ?_, fun hsel => ?_⟩
  · refine (exec_regRow_of_selected hreg hsel val).trans ?_
    rw [State.regWrite, hsel]
    rfl
  · refine (exec_regRow_of_selected hreg hsel val).trans ?_
    rw [State.regWrite, hsel]
    rfl
  · refine (exec_regRow_of_selected hreg hsel val).trans ?_
    rw [State.regWrite, hsel]
    rfl

theorem State.coresetAssert_of_requested {s : State} (h : s.coCpuBusRequested = true) (a : Addr) :
    s.coresetAssert a = { s with coCpuResetAsserted := true }.addCall .coReset := if_pos h

theorem State.coresetAssert_of_notRequested {s : State} (h : s.coCpuBusRequested = false) (a : Addr) :
    s.coresetAssert a = s.unexpectedValue a 0#16 := if_neg (ne_true_of_eq_false h)

/-- Settles O25: the write takes the first pattern its value fits, and each pattern has its own row. -/
theorem coResetWrite : Obligations.CoResetWrite := by
  intro s a val
  refine ⟨rfl, rfl, fun hreg hsel => ?_⟩
  have hselects : s.selectsReg a .coreset = true := State.selectsReg_iff.mpr ⟨hreg, hsel⟩
  have hwrite : ∀ w, exec (.coresetWr a w) s = .next (s.coresetWrite a w) := fun w => if_pos hselects
  have hassert : exec (.coresetAssert a) s = .next (s.coresetAssert a) := if_pos hselects
  refine ⟨fun hreq => ⟨_, rfl, ?_, ?_⟩, fun hreq => ⟨_, rfl, ?_, ?_⟩, fun hrelease => ?_, fun h0 h100 h1 => ⟨_, rfl, ?_, if_pos hselects⟩⟩
  · rw [hwrite]
    exact congrArg Host.Outcome.next (State.coresetAssert_of_requested hreq a)
  · rw [hassert, State.coresetAssert_of_requested hreq]
    rfl
  · rw [hwrite]
    exact congrArg Host.Outcome.next (State.coresetAssert_of_notRequested hreq a)
  · rw [hassert, State.coresetAssert_of_notRequested hreq]
    rfl
  · have hne : val ≠ 0x0000#16 := by rintro rfl; simp at hrelease
    rw [hwrite, State.coresetWrite, if_neg hne, if_pos hrelease]
    rfl
  · rw [hwrite, State.coresetWrite, if_neg h0, if_neg (not_or.mpr ⟨h100, h1⟩)]
    rfl

/-- The lane of a word as the statements write it: bit 0 of the address picks the byte. -/
theorem lane_toBus (n : Width) (a : Addr) (w : Word) : (lane n a w).toBus = laneOf n a w := by
  cases n with
  | word => rfl
  | byte =>
    have hbit : a &&& 1#24 = 0#24 ↔ a.getLsbD 0 = false := by
      rw [← BitVec.toNat_inj, BitVec.toNat_and]
      simp [BitVec.getLsbD, Nat.testBit_zero, Nat.and_one_is_mod]
    simp only [lane, laneOf, hbit]
    cases a.getLsbD 0 <;> rfl

theorem ones_eq_lane (n : Width) (a : Addr) : ones n = lane n a 0xFFFF#16 := by
  cases n with
  | word => rfl
  | byte => simp only [lane]; split <;> rfl

theorem State.busreqWord_eq (s : State) : s.busreqWord =
    if s.coCpuBusRequested = true ∧ s.coCpuResetAsserted = false then 0x0000#16 else 0x0100#16 := by
  simp only [State.busreqWord, State.coAccess_iff]

theorem State.regRead_of_other {s : State} {a : Addr} (h : regSelOf s.cfg a ≠ .busreq) (n : Width) :
    s.regRead n a = s.regOtherRead n a := by
  unfold State.regRead
  split
  · next hbus => exact absurd hbus h
  all_goals rfl

/-- Settles O26: the bus-request word's lane, and the lane of all-ones at every other register. -/
theorem registerRead : Obligations.RegisterRead := by
  intro s a n hreg
  have hread : exec (.regRd n a) s = answered (s.regRead n a) := if_pos (beq_iff_eq.mpr hreg)
  refine ⟨fun hsel => ⟨_, rfl, ?_, ?_⟩, fun hsel => ⟨_, rfl, ?_, ?_⟩⟩
  · rw [← State.busreqWord_eq, ← lane_toBus]
    exact if_pos (State.selectsReg_iff.mpr ⟨hreg, hsel⟩)
  · rw [hread, State.regRead, hsel, ← State.busreqWord_eq, ← lane_toBus]
    rfl
  · have hother : (regionOf s.cfg s.mapper.variant a == .reg && regSelOf s.cfg a != .busreq) = true :=
      Bool.and_eq_true_iff.mpr ⟨beq_iff_eq.mpr hreg, bne_iff_ne.mpr hsel⟩
    rw [← lane_toBus, ← ones_eq_lane]
    exact if_pos hother
  · rw [hread, State.regRead_of_other hsel, ← lane_toBus, ← ones_eq_lane]
    rfl

/-- Settles O27: REG.WR is the write of the zero-extended word, which each register's row is too. -/
theorem registerWriteDispatch : Obligations.RegisterWriteDispatch := by
  intro s a v hreg val
  have hval : val = v.zext16 := by cases v <;> rfl
  have hrow : ∀ r, regSelOf s.cfg a = r → exec (regRow r a val) s = .next (s.regWrite a v) := fun r hsel => by
    rw [hval, State.regWrite_zext]
    exact exec_regRow_of_selected hreg hsel _
  have hbank : regSelOf s.cfg a = .banksel → exec (.mapBanksel a val) s = .next (s.regWrite a v) := fun hsel => by
    rw [State.regWrite, hsel, hval]
    rfl
  exact ⟨_, if_pos (beq_iff_eq.mpr hreg), hrow .memmode, hrow .busreq, hrow .coreset,
    fun hsel => ⟨hrow .banksel hsel, hbank hsel⟩, hrow .tmss, hrow .other⟩

end Sys2Proof.Machine
end

section
/-! PROOFS. The VDP ports seen from the bus (R114, R115, R118, R288) and DMA.START (R221). -/

namespace Sys2Proof.Machine

/-! ## Reads -/

theorem State.selectsPort_iff {s : State} {a : Addr} {o : VdpOffset} :
    s.selectsPort a o = true ↔ s.region a = .vdp ∧ vdpValid s.cfg a = true ∧ vdpOffsetOf a = o := by
  simp only [State.selectsPort, State.inVdp, State.region, Bool.and_eq_true, beq_iff_eq, and_assoc]

theorem exec_vdpRd_of_valid {s : State} {a : Addr} (hvdp : s.region a = .vdp) (hvalid : vdpValid s.cfg a = true) (n : Width) :
    exec (.vdpRd n a) s = answered (s.vdpRead n a) := (if_pos (beq_iff_eq.mpr hvdp)).trans (if_pos hvalid)

theorem exec_vdpWr_of_valid {s : State} {a : Addr} (hvdp : s.region a = .vdp) (hvalid : vdpValid s.cfg a = true) (v : Datum) :
    exec (.vdpWr a v) s = ofExcept (s.vdpWrite a v) := (if_pos (beq_iff_eq.mpr hvdp)).trans (if_pos hvalid)

/-- A VDP read returns the lane of its port's word. -/
theorem answered_vdpRead (s : State) (n : Width) (a : Addr) : answered (s.vdpRead n a) =
    .next ((s.vdpReadWord a).1.addReply (.data (laneOf n a (s.vdpReadWord a).2))) := by
  rw [← lane_toBus]
  rfl

/-- Settles O19: at each port, the row of the port and VDP.RD are the one read of its word. -/
theorem vdpPortReads : Obligations.VdpPortReads := by
  intro s n a hvdp hvalid
  have hport : ∀ o, vdpOffsetOf a = o → s.selectsPort a o = true := fun o ho =>
    State.selectsPort_iff.mpr ⟨hvdp, hvalid, ho⟩
  have hread : exec (.vdpRd n a) s = answered (s.vdpRead n a) := exec_vdpRd_of_valid hvdp hvalid n
  refine ⟨fun ho => ?_, fun ho => ?_, fun ho => ?_, fun ho => ?_⟩
  · have hanswer := answered_vdpRead s n a
    rw [State.vdpReadWord, ho] at hanswer
    exact ⟨_, _, rfl, rfl, (if_pos (hport _ ho)).trans hanswer, hread.trans hanswer⟩
  · have hanswer := answered_vdpRead s n a
    rw [State.vdpReadWord, ho] at hanswer
    exact ⟨_, _, rfl, rfl, (if_pos (hport _ ho)).trans hanswer, hread.trans hanswer⟩
  · have hanswer := answered_vdpRead s n a
    rw [State.vdpReadWord, ho] at hanswer
    exact ⟨_, _, _, rfl, rfl, rfl, (if_pos (hport _ ho)).trans hanswer, hread.trans hanswer⟩
  · have hanswer := answered_vdpRead s n a
    rw [State.vdpReadWord, ho] at hanswer
    exact ⟨_, rfl, (if_pos (hport _ ho)).trans hanswer, hread.trans hanswer⟩

/-- Settles O20: the validity test comes before the handler. -/
theorem vdpInvalidAddress : Obligations.VdpInvalidAddress := by
  intro s a v hvdp hinvalid
  have hregion : s.inVdp a = true := beq_iff_eq.mpr hvdp
  have hfail : ¬ vdpValid s.cfg a = true := ne_true_of_eq_false hinvalid
  exact ⟨(if_pos hregion).trans (if_neg hfail), (if_pos hregion).trans (if_neg hfail), (if_pos hregion).trans (if_neg hfail)⟩

/-! ## Deferred and dropped writes -/

theorem State.vdpReady_false_iff {s : State} :
    s.vdpReady = false ↔ s.dma.fifoQueue.length = s.cfg.fifoCapacity ∨ s.dma.mode = .m68kToVram := by
  rw [State.vdpReady, Bool.and_eq_false_iff]
  simp [State.fifoFull, State.m2vBusy]

/-- Settles O22: a write that has a port waits while the VDP is not ready, one that has none is dropped, whichever row presents it. -/
theorem vdpWriteDeferredOrDropped : Obligations.VdpWriteDeferredOrDropped := by
  intro s a v hvdp hvalid
  have hport : ∀ o, vdpOffsetOf a = o → s.selectsPort a o = true := fun o ho =>
    State.selectsPort_iff.mpr ⟨hvdp, hvalid, ho⟩
  have hwrite : exec (.vdpWr a v) s = ofExcept (s.vdpWrite a v) := exec_vdpWr_of_valid hvdp hvalid v
  refine ⟨fun ho hbusy => ?_, fun ho => ?_⟩
  · have hready : s.vdpReady = false := State.vdpReady_false_iff.mpr hbusy
    have hdefer : ofExcept (s.vdpWrite a v) = .next (s.defer ⟨a, v⟩) :=
      congrArg ofExcept (s.vdpWrite_not_ready ⟨a, v⟩ ((reachesPort_iff _).mpr ho) hready)
    have hselected : ((s.selectsPort a .data || s.selectsPort a .control) && !s.vdpReady) = true := by
      rw [hready, Bool.not_false, Bool.and_true, Bool.or_eq_true]
      exact ho.imp (hport _) (hport _)
    exact ⟨_, rfl, if_pos hselected, hwrite.trans hdefer, fun hdata => (if_pos (hport _ hdata)).trans hdefer,
      fun hcontrol => (if_pos (hport _ hcontrol)).trans hdefer⟩
  · have hnoport : reachesPort ⟨a, v⟩ = false := by
      rw [Bool.eq_false_iff, ne_eq, reachesPort_iff]
      obtain ho | ho := ho <;> simp [ho]
    have hdrop : ofExcept (s.vdpWrite a v) = .next (s.addLog .vdpUnexpectedPort (.addr a)) :=
      congrArg ofExcept (s.vdpWrite_no_port ⟨a, v⟩ hnoport)
    have hselected : (s.selectsPort a .hv || s.selectsPort a .unexpected) = true :=
      Bool.or_eq_true_iff.mpr (ho.imp (hport _) (hport _))
    exact ⟨_, rfl, (if_pos hselected).trans hdrop, hwrite.trans hdrop⟩

/-! ## DMA.START -/

theorem State.startDma_refused {s : State} {o : DmaOperands} (h : ¬ (1 ≤ o.length ∧ s.dma.mode = .none)) :
    s.startDma o = .error .dmaStartUndefined := if_neg h

/-- Settles O43: the start is defined on a positive length and an idle engine, and on nothing else. -/
theorem dmaStart : Obligations.DmaStart := by
  refine fun s o => ⟨fun hlen hmode => ?_, fun hundefined => ?_⟩
  · exact congrArg ofExcept (State.startDma_ok.mpr ⟨⟨hlen, hmode⟩, rfl⟩)
  · refine congrArg ofExcept (State.startDma_refused ?_)
    rintro ⟨hlen, hmode⟩
    obtain hzero | hactive := hundefined
    · omega
    · exact hactive hmode

/-! ## Forwarded writes -/

/-- A forwarded word before the transfer its answer may start (R115): the word handed over, and a data word pushed. -/
def State.handOver (s : State) (p : Port) (w : Word) : State :=
  match p with
  | .data => (s.askPort .data w).pushFifo ⟨s.portAnswer.target, s.portAnswer.addr, w⟩
  | .control => s.askPort .control w

/-- The transfer an answer starts, loaded (R221). -/
def State.answerStart (s : State) : Option DmaOperands → State
  | none => s
  | some o => s.loadDma o

theorem State.portWrite_eq (s : State) (p : Port) (w : Word) : s.portWrite p w =
    match s.portAnswer.start with
    | none => .ok (s.handOver p w)
    | some o => (s.handOver p w).startDma o := by
  cases p <;> rfl

theorem State.handOver_mode (s : State) (p : Port) (w : Word) : (s.handOver p w).dma.mode = s.dma.mode := by cases p <;> rfl

theorem State.portWrite_of_legal {s : State} (h : s.AnswerLegal) (p : Port) (w : Word) :
    s.portWrite p w = .ok ((s.handOver p w).answerStart s.portAnswer.start) := by
  rw [State.portWrite_eq]
  cases hstart : s.portAnswer.start with
  | none => rfl
  | some o =>
    obtain ⟨hlen, hmode⟩ := h o hstart
    exact State.startDma_ok.mpr ⟨⟨hlen, (s.handOver_mode p w).trans hmode⟩, rfl⟩

theorem State.portWrite_of_illegal {s : State} (h : ¬ s.AnswerLegal) (p : Port) (w : Word) :
    s.portWrite p w = .error .dmaStartUndefined := by
  simp only [State.AnswerLegal, not_forall] at h
  obtain ⟨o, hstart, hillegal⟩ := h
  rw [State.portWrite_eq, hstart]
  refine State.startDma_refused ?_
  rwa [State.handOver_mode]

theorem State.vdpWrite_data {s : State} {a : Addr} (ho : vdpOffsetOf a = .data) (hready : s.vdpReady = true) (v : Datum) :
    s.vdpWrite a v = s.portWrite .data v.mirrored := by
  have hport : portOf a = .data := by
    unfold vdpOffsetOf at ho
    unfold portOf
    split_ifs at ho ⊢
    rfl
  rw [State.vdpWrite, ho, State.vdpForward, hport]
  exact if_pos hready

theorem State.vdpWrite_control {s : State} {a : Addr} (ho : vdpOffsetOf a = .control) (hready : s.vdpReady = true) (v : Datum) :
    s.vdpWrite a v = s.portWrite .control v.mirrored := by
  have hport : portOf a = .control := by
    unfold vdpOffsetOf at ho
    unfold portOf
    split_ifs at ho ⊢
    rfl
  rw [State.vdpWrite, ho, State.vdpForward, hport]
  exact if_pos hready

/-- What a legal answer leaves of the engine is the started transfer, or the engine as it was, beside the queue. -/
theorem State.dmaAfter_answerStart (s u : State) (hdma : u.dma = { s.dma with fifoQueue := u.dma.fifoQueue })
    (start : Option DmaOperands) : DmaAfter s.dma start (u.answerStart start).dma := by
  cases start with
  | none => exact hdma
  | some o =>
    have hlatch : u.dma.copyLatch = s.dma.copyLatch := by rw [hdma]
    simp only [DmaAfter, State.answerStart, State.loadDma, hlatch]

/-- Settles O21: a ready write is the port write of the mirrored value; a legal answer leaves what `handOver` and the start leave, an
illegal one refuses. -/
theorem vdpPortForward : Obligations.VdpPortForward := by
  intro s a v hvdp hvalid hready ans w
  have hw : w = v.mirrored := by cases v <;> rfl
  have hport : ∀ o, vdpOffsetOf a = o → s.selectsPort a o = true := fun o ho =>
    State.selectsPort_iff.mpr ⟨hvdp, hvalid, ho⟩
  have hwrite : exec (.vdpWr a v) s = ofExcept (s.vdpWrite a v) := exec_vdpWr_of_valid hvdp hvalid v
  rw [hw]
  refine ⟨fun ho => ?_, fun ho => ?_⟩
  · have hforward := State.vdpWrite_data ho hready v
    refine ⟨fun hlegal => ?_, fun hillegal => ?_⟩
    · have hnext := congrArg ofExcept (hforward.trans (State.portWrite_of_legal hlegal .data v.mirrored))
      refine ⟨_, (if_pos (hport _ ho)).trans hnext, hwrite.trans hnext, ?_, s.dmaAfter_answerStart (s.handOver .data v.mirrored) rfl _⟩
      cases hstart : s.portAnswer.start <;> rfl
    · have hrefused := congrArg ofExcept (hforward.trans (State.portWrite_of_illegal hillegal .data v.mirrored))
      exact ⟨(if_pos (hport _ ho)).trans hrefused, hwrite.trans hrefused⟩
  · have hforward := State.vdpWrite_control ho hready v
    refine ⟨fun hlegal => ?_, fun hillegal => ?_⟩
    · have hnext := congrArg ofExcept (hforward.trans (State.portWrite_of_legal hlegal .control v.mirrored))
      refine ⟨_, (if_pos (hport _ ho)).trans hnext, hwrite.trans hnext, ?_, s.dmaAfter_answerStart (s.handOver .control v.mirrored) rfl _⟩
      cases hstart : s.portAnswer.start <;> rfl
    · have hrefused := congrArg ofExcept (hforward.trans (State.portWrite_of_illegal hillegal .control v.mirrored))
      exact ⟨(if_pos (hport _ ho)).trans hrefused, hwrite.trans hrefused⟩

end Sys2Proof.Machine
end

section
/-! PROOFS. The dispatch of bus transactions (R100 to R103, R41, R43, R160, R288) and the frame of a bus read (R46). -/

namespace Sys2Proof.Machine

/-! ## The contract on its variant (R160) -/

theorem State.mapRead_linear {s : State} (h : s.mapper.variant = .linear) : s.mapRead = s.linRead := by
  funext n a
  rw [State.mapRead, h]

theorem State.mapRead_paged {s : State} (h : s.mapper.variant = .paged) : s.mapRead = s.pagRead := by
  funext n a
  rw [State.mapRead, h]

theorem State.mapRead_battery {s : State} (h : s.mapper.variant = .battery) : s.mapRead = s.batRead := by
  funext n a
  rw [State.mapRead, h]

theorem State.mapWrite_rom {s : State} (h : s.mapper.variant = .linear ∨ s.mapper.variant = .paged) (a : Addr) (v : Datum) :
    s.mapWrite a v = s.romWrite a := by
  obtain h | h := h <;> rw [State.mapWrite, h]

theorem splitWrite_romWrite {s : State} (h : s.mapper.variant = .linear ∨ s.mapper.variant = .paged) (a : Addr) (v : BusDatum) :
    splitWrite (fun t x _ => t.romWrite x) s a v = splitWrite State.mapWrite s a v := by
  cases v with
  | byte b => exact (State.mapWrite_rom h _ _).symm
  | word w => exact (State.mapWrite_rom h _ _).symm
  | long l =>
    have hnext : (s.romWrite a).mapper.variant = .linear ∨ (s.romWrite a).mapper.variant = .paged := h
    simp only [splitWrite]
    rw [State.mapWrite_rom h, State.mapWrite_rom hnext]

/-- Settles O14: a handler's access is the contract's at its size, and in each variant the contract's rows are the variant's. -/
theorem cartAndContract : Obligations.CartAndContract := by
  refine ⟨fun s a hcart => ⟨fun n => ⟨_, whenSelected_answered hcart (s, s.mapRead n a), ?_⟩, fun v => ⟨_, if_pos (beq_iff_eq.mpr hcart), ?_⟩⟩,
    fun s a n v val => ⟨_, _, _, rfl, rfl, rfl, fun hv => ⟨?_, ?_, ?_⟩, fun hv => ⟨?_, ?_, ?_⟩, fun hv => ⟨?_, ?_, ?_⟩⟩⟩
  · cases n <;> rfl
  · cases v <;> rfl
  · rw [State.mapRead_linear hv]
    exact if_pos (beq_iff_eq.mpr hv)
  · rw [← splitWrite_romWrite (.inl hv)]
    exact if_pos (beq_iff_eq.mpr hv)
  · rw [State.mapBanksel_linear hv]
    exact if_pos (beq_iff_eq.mpr hv)
  · rw [State.mapRead_paged hv]
    exact if_pos (beq_iff_eq.mpr hv)
  · rw [← splitWrite_romWrite (.inr hv)]
    exact if_pos (beq_iff_eq.mpr hv)
  · rw [State.mapBanksel_paged hv]
    exact if_pos (beq_iff_eq.mpr hv)
  · rw [State.mapRead_battery hv]
    exact if_pos (beq_iff_eq.mpr hv)
  · rw [← splitWrite_batWrite hv]
    exact if_pos (beq_iff_eq.mpr hv)
  · rw [State.mapBanksel_battery hv]
    exact if_pos (beq_iff_eq.mpr hv)

/-! ## MemRead and MemWrite by the validity of the address -/

/-- The one failure of the bus: an address of the VDP window that fails the validity test (R100, R101). -/
def State.vdpFails (s : State) (a : Addr) : Prop := s.region a = .vdp ∧ vdpValid s.cfg a = false

theorem State.valid_of_not_vdpFails {s : State} {a : Addr} (h : ¬ s.vdpFails a) : s.region a = .vdp → vdpValid s.cfg a = true :=
  fun hvdp => Bool.eq_true_of_not_eq_false fun hinvalid => h ⟨hvdp, hinvalid⟩

theorem State.memRead_fails {s : State} {addr : BitVec 32} (h : s.vdpFails (addr.setWidth 24)) (n : Size) :
    s.memRead n addr = (s.addLog .vdpInvalidRead (.addr (addr.setWidth 24)), busOnes n) := if_pos h

theorem State.memRead_valid {s : State} {addr : BitVec 32} (h : ¬ s.vdpFails (addr.setWidth 24)) (n : Size) :
    s.memRead n addr = s.readBy (s.region (addr.setWidth 24)) n (addr.setWidth 24) := if_neg h

theorem State.memWrite_fails {s : State} {addr : BitVec 32} (h : s.vdpFails (addr.setWidth 24)) (v : BusDatum) :
    s.memWrite addr v = .ok (s.raiseFatal .vdpInvalidWrite (addr.setWidth 24)) := if_pos h

theorem State.memWrite_valid {s : State} {addr : BitVec 32} (h : ¬ s.vdpFails (addr.setWidth 24)) (v : BusDatum) :
    s.memWrite addr v = s.writeBy (s.region (addr.setWidth 24)) (addr.setWidth 24) v := if_neg h

theorem exec_vdpRd_fails {s : State} {a : Addr} (h : s.vdpFails a) (n : Width) :
    exec (.vdpRd n a) s = answered (s.addLog .vdpInvalidRead (.addr a), ones n) :=
  (if_pos (beq_iff_eq.mpr h.1)).trans (if_neg (ne_true_of_eq_false h.2))

theorem exec_vdpWr_fails {s : State} {a : Addr} (h : s.vdpFails a) (v : Datum) :
    exec (.vdpWr a v) s = .next (s.raiseFatal .vdpInvalidWrite a) :=
  (if_pos (beq_iff_eq.mpr h.1)).trans (if_neg (ne_true_of_eq_false h.2))

/-- Settles O15: where the address fails, VDP.RD fails with it; elsewhere the read is the handler's, once or twice. -/
theorem busReadDispatch : Obligations.BusReadDispatch := by
  intro s addr
  refine ⟨fun n => ⟨_, rfl, ?_⟩, fun hvdp hinvalid => ?_, fun hvalid => ?_⟩
  · by_cases hfails : s.vdpFails (addr.setWidth 24)
    · rw [State.memRead_fails hfails, hfails.1]
      refine (exec_vdpRd_fails hfails n).trans ?_
      cases n <;> rfl
    · rw [State.memRead_valid hfails, exec_readRow (State.valid_of_not_vdpFails hfails)]
      cases n <;> rfl
  · have hfails : s.vdpFails (addr.setWidth 24) := ⟨hvdp, hinvalid⟩
    exact congrArg (fun r : State × BusDatum => Host.Outcome.next (r.1.addReply (.data r.2))) (State.memRead_fails hfails .long)
  · generalize hg : s.region (addr.setWidth 24) = g
    obtain ⟨w1, hw1⟩ := s.readHandler_word g (addr.setWidth 24)
    obtain ⟨w2, hw2⟩ := (s.readHandler g .word (addr.setWidth 24)).1.readHandler_word g (addr.setWidth 24 + 2#24)
    have hmem : ∀ n, exec (.memRead n addr) s = .next ((s.readBy g n (addr.setWidth 24)).1.addReply
        (.data (s.readBy g n (addr.setWidth 24)).2)) := fun n => by
      rw [← hg, ← State.memRead_valid hvalid]
      rfl
    refine ⟨_, _, w1, w2, Prod.ext rfl hw1, Prod.ext rfl hw2, ?_, ?_⟩
    · rw [hmem]
      simp only [State.readBy, hw1]
      rfl
    · rw [hmem]
      simp only [State.readBy, hw1, hw2]
      rfl

theorem State.writeBy_toBus (s : State) (g : Region) (a : Addr) (v : Datum) : s.writeBy g a v.toBus = s.writeHandler g a v := by
  cases v <;> rfl

/-- A LONG is the second WORD of the same handler on what the first one left (R43). -/
theorem State.writeBy_long {s u : State} {g : Region} {a : Addr} {l : Long}
    (h : s.writeHandler g a (.word (highWord l)) = .ok u) :
    s.writeBy g a (.long l) = u.writeHandler g (a + 2#24) (.word (lowWord l)) := by
  simp only [State.writeBy, h]

/-- Settles O16: where the address fails, VDP.WR fails with it; elsewhere the write is the handler's, and a LONG's second WORD goes to
the same handler. -/
theorem busWriteDispatch : Obligations.BusWriteDispatch := by
  intro s addr
  refine ⟨fun v => ?_, fun v hvdp hinvalid => ?_, fun l u hvalid hfirst => ?_⟩
  · by_cases hfails : s.vdpFails (addr.setWidth 24)
    · rw [hfails.1]
      exact (congrArg ofExcept (State.memWrite_fails hfails v.toBus)).trans (exec_vdpWr_fails hfails v).symm
    · rw [exec_writeRow (State.valid_of_not_vdpFails hfails), ← State.writeBy_toBus]
      exact congrArg ofExcept (State.memWrite_valid hfails v.toBus)
  · exact congrArg ofExcept (State.memWrite_fails ⟨hvdp, hinvalid⟩ v)
  · have hhigh := (State.memWrite_valid hvalid _).symm.trans (ofExcept_next.mp hfirst)
    have hlong := congrArg ofExcept ((State.memWrite_valid hvalid _).trans (State.writeBy_long hhigh))
    refine ⟨hlong, fun hregion hlowValid => hlong.trans ?_⟩
    rw [← hregion] at hlowValid ⊢
    exact (exec_writeRow hlowValid _).symm

/-! ## The frame of a bus read -/

/-- How many window charges a read by a region makes (R108). -/
def chargesOf (g : Region) : Nat := if g = .coCpu then 1 else 0

/-- What a read draws from the collaborators. -/
def State.drawn (s : State) : List Call × Inputs × Nat := (s.calls, s.inputs, s.draws)

/-- A read that made `k` window charges: the log and the calls grew, and nothing else but the answers drawn changed. -/
structure State.ReadsTo (s t : State) (k : Nat) : Prop where
  frame : t.offRead = s.offRead
  charge : t.penalty.main = s.penalty.main + k * s.cfg.coPenalty
  log : s.log <+: t.log
  calls : s.calls <+: t.calls

theorem State.ReadsTo.trans {s t u : State} {k m : Nat} (h : s.ReadsTo t k) (h' : t.ReadsTo u m) : s.ReadsTo u (k + m) where
  frame := h'.frame.trans h.frame
  charge := by
    have hcfg : t.cfg = s.cfg := (congrArg State.cfg h.frame : t.offRead.cfg = s.offRead.cfg)
    rw [h'.charge, h.charge, hcfg, Nat.add_mul, Nat.add_assoc]
  log := h.log.trans h'.log
  calls := h.calls.trans h'.calls

theorem State.ioByte_reads (s : State) (o : Addr) : s.ReadsTo (s.ioByte o).1 0 := by
  refine ⟨s.ioByte_frame o, ?_, (s.ioByte_log o).symm ▸ List.prefix_refl _, ?_⟩
  · rw [Nat.zero_mul]
    unfold State.ioByte
    split <;> rfl
  · unfold State.ioByte
    split
    · exact List.prefix_refl _
    · exact List.prefix_append _ _

theorem State.ioRead_reads (s : State) (n : Width) (a : Addr) : s.ReadsTo (s.ioRead n a).1 0 := by
  cases n
  · exact s.ioByte_reads _
  · exact (s.ioByte_reads _).trans (State.ioByte_reads _ _)

theorem State.coRead_reads (s : State) (n : Width) (a : Addr) : s.ReadsTo (s.coRead n a).1 1 := by
  refine ⟨s.coRead_frame n a, ?_, s.coRead_log n a, ?_⟩ <;> cases haccess : s.coAccess
  · rw [State.coRead_of_noAccess haccess, Nat.one_mul]
    rfl
  · rw [State.coRead_of_access haccess, Nat.one_mul]
    rfl
  · rw [State.coRead_of_noAccess haccess]
    exact List.prefix_refl _
  · rw [State.coRead_of_access haccess]
    exact List.prefix_refl _

theorem State.regRead_reads (s : State) (n : Width) (a : Addr) : s.ReadsTo (s.regRead n a).1 0 := by
  have hlog := s.regRead_log n a
  rw [State.regRead_frame]
  exact ⟨rfl, by rw [Nat.zero_mul]; rfl, hlog, List.prefix_refl _⟩

theorem State.vdpRead_reads (s : State) (n : Width) (a : Addr) : s.ReadsTo (s.vdpRead n a).1 0 := by
  refine ⟨s.vdpRead_frame n a, ?_, s.vdpRead_log n a, ?_⟩
  · rw [Nat.zero_mul]
    simp only [State.vdpRead, State.vdpReadWord]
    split <;> rfl
  · simp only [State.vdpRead, State.vdpReadWord]
    split
    · exact List.prefix_append _ _
    · exact List.prefix_append _ _
    · exact (List.prefix_append _ _).trans (List.prefix_append _ _)
    · exact List.prefix_refl _

theorem State.ReadsTo.refl (s : State) : s.ReadsTo s 0 := ⟨rfl, by rw [Nat.zero_mul]; rfl, List.prefix_refl _, List.prefix_refl _⟩

theorem State.addLog_reads (s : State) (k : EventKind) (i : EventInfo) : s.ReadsTo (s.addLog k i) 0 :=
  ⟨rfl, by rw [Nat.zero_mul]; rfl, List.prefix_append _ _, List.prefix_refl _⟩

theorem State.readHandler_reads (s : State) (g : Region) (n : Width) (a : Addr) :
    s.ReadsTo (s.readHandler g n a).1 (chargesOf g) := by
  cases g
  case coCpu => exact s.coRead_reads n a
  case io => exact s.ioRead_reads n a
  case reg => exact s.regRead_reads n a
  case vdp => exact s.vdpRead_reads n a
  case cart => exact .refl s
  case ram => exact .refl s
  all_goals exact s.addLog_reads _ _

/-- Outside the IO and VDP windows a read draws nothing. -/
theorem State.readHandler_drawn (s : State) {g : Region} (hio : g ≠ .io) (hvdp : g ≠ .vdp) (n : Width) (a : Addr) :
    (s.readHandler g n a).1.drawn = s.drawn := by
  cases g with
  | io => exact absurd rfl hio
  | vdp => exact absurd rfl hvdp
  | coCpu =>
    cases haccess : s.coAccess
    · exact congrArg (fun r : State × Datum => r.1.drawn) (State.coRead_of_noAccess haccess n a)
    · exact congrArg (fun r : State × Datum => r.1.drawn) (State.coRead_of_access haccess n a)
  | reg =>
    unfold State.readHandler
    dsimp only
    rw [State.regRead_frame]
    rfl
  | _ => rfl

/-- The WORD operations a bus access of a size makes (R43). -/
def wordsOf : Size → Nat
  | .byte => 1
  | .word => 1
  | .long => 2

theorem State.memRead_reads (s : State) (n : Size) (addr : BitVec 32) :
    s.ReadsTo (s.memRead n addr).1 (wordsOf n * chargesOf (s.region (addr.setWidth 24))) := by
  by_cases hfails : s.vdpFails (addr.setWidth 24)
  · rw [State.memRead_fails hfails, hfails.1]
    exact s.addLog_reads _ _
  · rw [State.memRead_valid hfails]
    cases n with
    | long =>
      rw [wordsOf, Nat.two_mul]
      exact (s.readHandler_reads _ _ _).trans (State.readHandler_reads _ _ _ _)
    | _ =>
      rw [wordsOf, Nat.one_mul]
      exact s.readHandler_reads _ _ _

theorem State.memRead_drawn {s : State} {addr : BitVec 32} (hio : s.region (addr.setWidth 24) ≠ .io)
    (hvdp : s.region (addr.setWidth 24) ≠ .vdp) (n : Size) : (s.memRead n addr).1.drawn = s.drawn := by
  have hvalid : ¬ s.vdpFails (addr.setWidth 24) := fun hfails => hvdp hfails.1
  rw [State.memRead_valid hvalid]
  cases n with
  | long => exact (State.readHandler_drawn _ hio hvdp _ _).trans (s.readHandler_drawn hio hvdp _ _)
  | _ => exact s.readHandler_drawn hio hvdp _ _

theorem charges_le (n : Size) (g : Region) : wordsOf n * chargesOf g ≤ 2 := by
  cases n <;> cases g <;> decide

/-- Settles O17: the frame of the handler's one or two reads, with the datum they return. -/
theorem busReadFrame : Obligations.BusReadFrame := by
  intro s n addr
  obtain ⟨hframe, hcharge, hlog, hcalls⟩ := s.memRead_reads n addr
  refine ⟨_, (s.memRead n addr).2, _, rfl, ?_, charges_le n (s.region (addr.setWidth 24)), fun hco => ?_, hlog, hcalls, fun hio hvdp => ?_⟩
  · rw [← hcharge]
    exact congrArg (fun t : State => t.addReply (.data (s.memRead n addr).2)) (State.of_offRead hframe)
  · rw [chargesOf, if_neg hco, Nat.mul_zero]
  · have hdrawn := State.memRead_drawn hio hvdp n
    simp only [State.drawn, Prod.mk.injEq] at hdrawn
    exact hdrawn

end Sys2Proof.Machine
end

section
/-! PROOFS. The frame and completion of bus writes (R101, R46), region by region: one handler is written once or, for a LONG, twice. -/

namespace Sys2Proof.Machine

/-! ## Handlers that always complete -/

/-- A region whose handler always completes writes it once or twice (R43). -/
theorem State.memWrite_of_handler {s : State} {addr : BitVec 32} {g : Region} {f : State → Addr → Datum → State}
    (hg : s.region (addr.setWidth 24) = g) (hvdp : g ≠ .vdp) (hf : ∀ (s : State) a v, s.writeHandler g a v = .ok (f s a v))
    (v : BusDatum) : s.memWrite addr v = .ok (splitWrite f s (addr.setWidth 24) v) := by
  have hvalid : ¬ s.vdpFails (addr.setWidth 24) := fun hfails => hvdp (hg.symm.trans hfails.1)
  rw [State.memWrite_valid hvalid, hg]
  cases v with
  | byte b => exact hf _ _ _
  | word w => exact hf _ _ _
  | long l =>
    rw [State.writeBy_long (hf _ _ _)]
    exact hf _ _ _

/-- A byte that no single write touches is untouched by a write of any size. -/
theorem splitWrite_untouched {f : State → Addr → Datum → State} {P : State → Prop} {byteAt : State → Nat → Byte}
    {first next : Addr → Nat} {k : Nat} (hkeep : ∀ s a v, P s → P (f s a v))
    (hf : ∀ s a v, P s → k ∉ touched first next a v.toBus → byteAt (f s a v) k = byteAt s k) {s : State} (hs : P s)
    {a : Addr} {v : BusDatum} (hk : k ∉ touched first next a v) : byteAt (splitWrite f s a v) k = byteAt s k := by
  cases v with
  | byte b => exact hf s a (.byte b) hs hk
  | word w => exact hf s a (.word w) hs hk
  | long l =>
    simp only [touched, List.mem_cons, List.not_mem_nil, or_false, not_or] at hk
    obtain ⟨hfirst, hnext, hfirst2, hnext2⟩ := hk
    refine (hf _ _ (.word (lowWord l)) (hkeep _ _ _ hs) ?_).trans (hf s a (.word (highWord l)) hs ?_)
    · simp [Datum.toBus, touched, hfirst2, hnext2]
    · simp [Datum.toBus, touched, hfirst, hnext]

/-! ## The cartridge -/

/-- A cartridge write reaches the device of an overlay enabled for writing, or changes the log alone (R163, R166, R169). -/
theorem State.mapWrite_cases (s : State) (a : Addr) (v : Datum) :
    s.mapWrite a v = { s with log := (s.mapWrite a v).log }
    ∨ ∃ o, s.cfg.overlay = some o ∧ s.mapper.variant = .battery ∧ s.mapper.overlayMode = .readWrite
      ∧ s.mapWrite a v = s.devWrite o a v := by
  cases hv : s.mapper.variant
  · exact .inl (by rw [State.mapWrite_rom (.inl hv)]; rfl)
  · exact .inl (by rw [State.mapWrite_rom (.inr hv)]; rfl)
  · rw [State.mapWrite_battery hv, State.batWrite]
    cases ho : s.cfg.overlay with
    | none => exact .inl rfl
    | some o =>
      dsimp only
      split_ifs with hrw hro
      · exact .inr ⟨o, rfl, rfl, hrw.2, rfl⟩
      · exact .inl rfl
      · exact .inl rfl

/-- Only the log changed. -/
def State.logOnly (s t : State) : Prop := t = { s with log := t.log }

theorem State.logOnly.trans {s t u : State} (h : s.logOnly t) (h' : t.logOnly u) : s.logOnly u := by
  unfold State.logOnly at h h' ⊢
  rw [h', h]

theorem State.logOnly_addLog (s : State) (k : EventKind) (i : EventInfo) : s.logOnly (s.addLog k i) := rfl

/-- Without an overlay enabled for writing a cartridge write only logs. -/
theorem State.logOnly_mapWrites {s : State} (h : s.mapper.variant ≠ .battery ∨ s.mapper.overlayMode ≠ .readWrite) (a : Addr)
    (v : BusDatum) : s.logOnly (splitWrite State.mapWrite s a v) := by
  refine splitWrite_keeps (P := fun t => s.logOnly t) (fun t a v ht => ?_) a v rfl
  obtain hlog | ⟨o, -, hv, hmode, -⟩ := t.mapWrite_cases a v
  · exact ht.trans hlog
  · have hmapper : t.mapper = s.mapper := by rw [ht]
    rw [hmapper] at hv hmode
    exact (h.elim (· hv) (· hmode)).elim

theorem State.cfg_mapWrite (s : State) (a : Addr) (v : Datum) : (s.mapWrite a v).cfg = s.cfg :=
  (congrArg State.cfg (s.mapWrite_frame a v) : (s.mapWrite a v).offCart.cfg = s.offCart.cfg)

/-- With an SRAM overlay a cartridge write touches SRAM and the log. -/
theorem State.mapWrites_sram {s : State} {o : Overlay} (ho : s.cfg.overlay = some o) (hkind : o.kind = .sram) (a : Addr)
    (v : BusDatum) : splitWrite State.mapWrite s a v
      = { s with log := (splitWrite State.mapWrite s a v).log, sram := (splitWrite State.mapWrite s a v).sram }
    ∧ ∀ k, k ∉ touched (sramIndex o) (sramIndexNext o) a v → (splitWrite State.mapWrite s a v).sramByte k = s.sramByte k := by
  have hdev : ∀ (t : State) (o' : Overlay) (a : Addr) (v : Datum), t.cfg = s.cfg → t.cfg.overlay = some o' →
      t.devWrite o' a v = t.sramWrite o a v := fun t o' a v hcfg ho' => by
    obtain rfl : o = o' := Option.some.inj (ho.symm.trans (hcfg ▸ ho'))
    rw [State.devWrite, hkind]
  refine ⟨?_, fun k hk => ?_⟩
  · refine splitWrite_keeps (P := fun t => t = { s with log := t.log, sram := t.sram }) (fun t a v ht => ?_) a v rfl
    have hcfg : t.cfg = s.cfg := by rw [ht]
    obtain hlog | ⟨o', ho', -, -, hwrite⟩ := t.mapWrite_cases a v
    · rw [hlog, ht]
    · rw [hwrite, hdev t o' a v hcfg ho']
      cases v <;> (rw [ht]; rfl)
  · refine splitWrite_untouched (P := fun t => t.cfg = s.cfg) (byteAt := State.sramByte)
      (fun t a v ht => (t.cfg_mapWrite a v).trans ht) (fun t a v ht hk => ?_) rfl hk
    obtain hlog | ⟨o', ho', -, -, hwrite⟩ := t.mapWrite_cases a v
    · rw [hlog]
      rfl
    · rw [hwrite, hdev t o' a v ht ho', State.sramByte_sramWrite]
      cases v <;> simp_all [Datum.toBus, touched]

/-- A sample that leaves WRITE at the end of its acknowledge cycle did not move the word address (R195, R198, R200). -/
theorem State.addressRegister_of_stillWriting {s : State} {c d : Bool} (hstate : (s.eepStep c d).eeprom.state = .write)
    (hcycle : (s.eepStep c d).eeprom.bitCounter = 9) :
    (s.eepStep c d).eeprom.addressRegister = s.eeprom.addressRegister := by
  cases hc : s.eeprom.clockLine <;> cases c
  · rw [State.eepStep_low hc]
    rfl
  · rw [State.eepStep_rise hc] at hstate ⊢
    cases hs : s.eeprom.state <;> simp_all [State.lineEvent, State.gwaRise_eeprom, State.writeRise_eeprom, State.readRise_eeprom]
  · rw [State.eepStep_fall hc] at hstate hcycle ⊢
    cases hs : s.eeprom.state <;> simp only [State.lineEvent, State.sampleLines_state, hs] at hstate hcycle ⊢
    · rfl
    · unfold State.gwaFall at hstate hcycle ⊢
      dsimp only at hstate hcycle ⊢
      split_ifs at hstate hcycle ⊢
      all_goals simp_all
    · unfold State.writeFall at hstate hcycle ⊢
      dsimp only at hstate hcycle ⊢
      split_ifs at hstate hcycle ⊢
      all_goals simp_all
    · unfold State.readFall at hstate hcycle ⊢
      dsimp only at hstate hcycle ⊢
      split_ifs at hstate hcycle ⊢
      all_goals simp_all
    · rfl
  · rw [State.eepStep_of_lines ⟨hc, rfl⟩] at hstate ⊢
    cases hd : s.eeprom.dataLine <;> cases d <;>
      simp_all [lineEventOf, State.lineEvent, State.lineStart, State.lineStop]

/-- The next sample may store: WRITE at the end of its acknowledge cycle (R198). -/
def State.AtStore (s : State) : Prop := s.eeprom.state = .write ∧ s.eeprom.bitCounter = 9

theorem State.mapWrite_eeprom_cases {s : State} {o : Overlay} (ho : s.cfg.overlay = some o) (hkind : o.kind = .eeprom) (a : Addr)
    (v : Datum) : s.mapWrite a v = { s with log := (s.mapWrite a v).log } ∨ ∃ c d, s.mapWrite a v = s.eepStep c d := by
  obtain hlog | ⟨o', ho', -, -, hwrite⟩ := s.mapWrite_cases a v
  · exact .inl hlog
  · obtain rfl : o = o' := Option.some.inj (ho.symm.trans ho')
    refine .inr ⟨v.lineClock, v.lineData, ?_⟩
    rw [hwrite, State.devWrite, hkind]
    rfl

theorem State.eepByte_mapWrite {s : State} {o : Overlay} (ho : s.cfg.overlay = some o) (hkind : o.kind = .eeprom) (a : Addr)
    (v : Datum) {k : Nat} (hk : s.AtStore → k ≠ s.eepIndex) : (s.mapWrite a v).eepByte k = s.eepByte k := by
  obtain hlog | ⟨c, d, hstep⟩ := State.mapWrite_eeprom_cases ho hkind a v
  · rw [hlog]
    rfl
  · rw [hstep, State.eepByte_eepStep]
    exact if_neg fun ⟨_, _, hstate, hcycle, hindex⟩ => hk ⟨hstate, hcycle⟩ hindex

theorem State.eepIndex_mapWrite {s : State} {o : Overlay} (ho : s.cfg.overlay = some o) (hkind : o.kind = .eeprom) {a : Addr}
    {v : Datum} (hstore : (s.mapWrite a v).AtStore) : (s.mapWrite a v).eepIndex = s.eepIndex := by
  rw [State.eepIndex, State.cfg_mapWrite]
  obtain hlog | ⟨c, d, hstep⟩ := State.mapWrite_eeprom_cases ho hkind a v
  · rw [hlog]
    rfl
  · rw [hstep] at hstore ⊢
    rw [State.addressRegister_of_stillWriting hstore.1 hstore.2]
    rfl

/-- With an EEPROM overlay a cartridge write touches the EEPROM and the log; the store only at the word address the write found: of
the two samples of a LONG, only one can store. -/
theorem State.mapWrites_eeprom {s : State} {o : Overlay} (ho : s.cfg.overlay = some o) (hkind : o.kind = .eeprom) (a : Addr)
    (v : BusDatum) : splitWrite State.mapWrite s a v
      = { s with
          log := (splitWrite State.mapWrite s a v).log
          eep := (splitWrite State.mapWrite s a v).eep
          eeprom := (splitWrite State.mapWrite s a v).eeprom }
    ∧ ∀ k, k ≠ s.eepIndex → (splitWrite State.mapWrite s a v).eepByte k = s.eepByte k := by
  refine ⟨?_, fun k hk => ?_⟩
  · refine splitWrite_keeps (P := fun t => t = { s with log := t.log, eep := t.eep, eeprom := t.eeprom }) (fun t a v ht => ?_)
      a v rfl
    have hoverlay : t.cfg.overlay = some o := by rw [ht]; exact ho
    obtain hlog | ⟨c, d, hstep⟩ := State.mapWrite_eeprom_cases hoverlay hkind a v
    · rw [hlog, ht]
    · rw [hstep, State.of_offEeprom (t.eepStep_frame c d), ht]
  · cases v with
    | byte b => exact State.eepByte_mapWrite ho hkind _ _ fun _ => hk
    | word w => exact State.eepByte_mapWrite ho hkind _ _ fun _ => hk
    | long l =>
      have hoverlay : (s.mapWrite a (.word (highWord l))).cfg.overlay = some o := by rw [State.cfg_mapWrite, ho]
      refine (State.eepByte_mapWrite hoverlay hkind _ _ fun hstore => ?_).trans (State.eepByte_mapWrite ho hkind _ _ fun _ => hk)
      rwa [State.eepIndex_mapWrite ho hkind hstore]

/-! ## The other regions -/

theorem State.ramWrites (s : State) (a : Addr) (v : BusDatum) :
    splitWrite State.ramWrite s a v = { s with ram := (splitWrite State.ramWrite s a v).ram }
    ∧ ∀ k, k ∉ touched ramIndex ramIndexNext a v → (splitWrite State.ramWrite s a v).ramByte k = s.ramByte k := by
  refine ⟨?_, fun k hk => ?_⟩
  · refine splitWrite_keeps (P := fun t => t = { s with ram := t.ram }) (fun t a v ht => ?_) a v rfl
    rw [State.ramWrite_frame, ht]
  · refine splitWrite_untouched (P := fun _ => True) (byteAt := State.ramByte) (fun _ _ _ _ => trivial)
      (fun t a v _ hk => ?_) trivial hk
    rw [State.ramByte_ramWrite]
    cases v <;> simp_all [Datum.toBus, touched]

theorem State.coWrite_frame (s : State) (a : Addr) (v : Datum) : s.coWrite a v =
    { s with penalty := (s.coWrite a v).penalty, log := (s.coWrite a v).log, comem := (s.coWrite a v).comem } := by
  cases haccess : s.coAccess
  · rw [State.coWrite_of_noAccess haccess]
    rfl
  · rw [State.coWrite_of_access haccess]
    rfl

theorem State.coWrites (s : State) (a : Addr) (v : BusDatum) :
    splitWrite State.coWrite s a v = { s with
      penalty := (splitWrite State.coWrite s a v).penalty
      log := (splitWrite State.coWrite s a v).log
      comem := (splitWrite State.coWrite s a v).comem }
    ∧ ∀ k, k ∉ touched (comemIndex s.cfg) (comemIndex s.cfg) a v →
        (splitWrite State.coWrite s a v).comemByte k = s.comemByte k := by
  refine ⟨?_, fun k hk => ?_⟩
  · refine splitWrite_keeps (P := fun t => t = { s with penalty := t.penalty, log := t.log, comem := t.comem })
      (fun t a v ht => ?_) a v rfl
    rw [State.coWrite_frame, ht]
  · refine splitWrite_untouched (P := fun t => t.cfg = s.cfg) (byteAt := State.comemByte) (fun t a v ht => ?_)
      (fun t a v ht hk => ?_) rfl hk
    · rw [State.coWrite_frame]
      exact ht
    · rw [State.comemByte_coWrite, ht]
      refine if_neg fun ⟨_, hindex⟩ => hk ?_
      cases v <;> simp [Datum.toBus, touched, hindex]

theorem State.ioWrites (s : State) (a : Addr) (v : BusDatum) : splitWrite State.ioWrite s a v =
    { s with log := (splitWrite State.ioWrite s a v).log, calls := (splitWrite State.ioWrite s a v).calls } := by
  refine splitWrite_keeps (P := fun t => t = { s with log := t.log, calls := t.calls }) (fun t a v ht => ?_) a v rfl
  have hput : ∀ (t : State) (o : Addr) (b : Byte), t = { s with log := t.log, calls := t.calls } →
      t.ioPut o b = { s with log := (t.ioPut o b).log, calls := (t.ioPut o b).calls } := fun t o b ht => by
    rw [State.ioPut_frame, ht]
  cases v with
  | byte b => exact hput t _ b ht
  | word w => exact hput _ _ _ (hput t _ _ ht)

/-! ## The VDP window -/

theorem State.answersStartNothing_mono {s : State} {m n : Nat} (h : s.AnswersStartNothing n) (hmn : m ≤ n) :
    s.AnswersStartNothing m := fun k hk => h k (Nat.lt_of_lt_of_le hk hmn)

theorem State.answersStartNothing_next {s t : State} {n : Nat} (h : s.AnswersStartNothing (n + 1))
    (hinputs : t.inputs.port = s.inputs.port.tail) (hdraws : t.draws = s.draws + 1) : t.AnswersStartNothing n := by
  intro k hk
  rw [hinputs, hdraws, List.drop_tail, Nat.add_right_comm, Nat.add_assoc]
  exact h (k + 1) (Nat.succ_lt_succ hk)

theorem State.portAnswer_of_startsNothing {s : State} {n : Nat} (h : s.AnswersStartNothing (n + 1)) :
    s.portAnswer.start = none := h 0 (Nat.succ_pos n)

theorem State.AnswerLegal.of_none {s : State} (h : s.portAnswer.start = none) : s.AnswerLegal := fun o ho => by simp [h] at ho

theorem State.vdpWrite_of_legal {s : State} (h : s.AnswerLegal) (a : Addr) (v : Datum) : ∃ t, s.vdpWrite a v = .ok t := by
  unfold State.vdpWrite State.vdpForward
  split
  · exact ⟨_, rfl⟩
  · exact ⟨_, rfl⟩
  all_goals
    split
    · exact ⟨_, State.portWrite_of_legal h _ _⟩
    · exact ⟨_, rfl⟩

/-- While no answer starts a transfer a port write completes, and uses up one answer at most. -/
theorem State.vdpWrite_of_startsNothing {s : State} {n : Nat} (h : s.AnswersStartNothing (n + 1)) (a : Addr) (v : Datum) :
    ∃ t, s.vdpWrite a v = .ok t ∧ t.AnswersStartNothing n := by
  have hnone := State.portAnswer_of_startsNothing h
  have hwait := State.answersStartNothing_mono h (Nat.le_succ n)
  unfold State.vdpWrite State.vdpForward
  split
  · exact ⟨_, rfl, hwait⟩
  · exact ⟨_, rfl, hwait⟩
  all_goals
    split
    · refine ⟨_, State.portWrite_of_legal (.of_none hnone) _ _, ?_⟩
      rw [hnone]
      cases portOf a <;> exact State.answersStartNothing_next h rfl rfl
    · exact ⟨_, rfl, hwait⟩

theorem State.memWrite_vdp_frame {s t : State} {addr : BitVec 32} {v : BusDatum} (hvdp : s.region (addr.setWidth 24) = .vdp)
    (hvalid : vdpValid s.cfg (addr.setWidth 24) = true) (h : s.memWrite addr v = .ok t) : t.offVdp = s.offVdp := by
  have hpass : ¬ s.vdpFails (addr.setWidth 24) := fun hfails => ne_true_of_eq_false hfails.2 hvalid
  rw [State.memWrite_valid hpass, hvdp] at h
  cases v with
  | byte b => exact State.vdpWrite_frame h
  | word w => exact State.vdpWrite_frame h
  | long l =>
    simp only [State.writeBy, State.writeHandler] at h
    split at h
    · cases h
    · next hfirst => exact (State.vdpWrite_frame h).trans (State.vdpWrite_frame hfirst)

/-! ## The obligation -/

/-- Settles O18: the region's lemma, the others' clauses being about another region; in the VDP window the frame of a port write. -/
theorem busWriteFrame : Obligations.BusWriteFrame := by
  intro s addr v a
  refine ⟨fun hregion => ?_, fun hvdp hvalid => ?_⟩
  · have hlog : ∀ {t}, s.memWrite addr v = .ok t → s.log <+: t.log := fun h => (State.Grows.memWrite h).1
    cases hg : s.region a with
    | vdp => exact absurd hg hregion
    | cart =>
      have hnext := State.memWrite_of_handler (f := State.mapWrite) hg (by decide) (fun _ _ _ => rfl) v
      exact ⟨_, congrArg ofExcept hnext,
        fun _ => ⟨State.of_offCart (splitWrite_keeps (P := fun t => t.offCart = s.offCart)
            (fun t a v ht => (t.mapWrite_frame a v).trans ht) a v rfl),
          fun h => State.logOnly_mapWrites h a v, fun o ho hkind => State.mapWrites_sram ho hkind a v,
          fun o ho hkind => State.mapWrites_eeprom ho hkind a v⟩,
        nofun, nofun, nofun, nofun, nofun, hlog hnext⟩
    | ram =>
      have hnext := State.memWrite_of_handler (f := State.ramWrite) hg (by decide) (fun _ _ _ => rfl) v
      exact ⟨_, congrArg ofExcept hnext, nofun, fun _ => s.ramWrites a v, nofun, nofun, nofun, nofun, hlog hnext⟩
    | reserved =>
      have hnext := State.memWrite_of_handler (f := fun t x _ => t.rsvWrite x) hg (by decide) (fun _ _ _ => rfl) v
      exact ⟨_, congrArg ofExcept hnext, nofun, nofun,
        fun _ => splitWrite_keeps (P := fun t => s.logOnly t) (fun t x _ ht => ht.trans (t.logOnly_addLog _ _)) a v rfl,
        nofun, nofun, nofun, hlog hnext⟩
    | unmapped =>
      have hnext := State.memWrite_of_handler (f := fun t x _ => t.unmappedWrite x) hg (by decide) (fun _ _ _ => rfl) v
      exact ⟨_, congrArg ofExcept hnext, nofun, nofun,
        fun _ => splitWrite_keeps (P := fun t => s.logOnly t) (fun t x _ ht => ht.trans (t.logOnly_addLog _ _)) a v rfl,
        nofun, nofun, nofun, hlog hnext⟩
    | coCpu =>
      have hnext := State.memWrite_of_handler (f := State.coWrite) hg (by decide) (fun _ _ _ => rfl) v
      exact ⟨_, congrArg ofExcept hnext, nofun, nofun, nofun, fun _ => s.coWrites a v, nofun, nofun, hlog hnext⟩
    | io =>
      have hnext := State.memWrite_of_handler (f := State.ioWrite) hg (by decide) (fun _ _ _ => rfl) v
      exact ⟨_, congrArg ofExcept hnext, nofun, nofun, nofun, nofun, fun _ => s.ioWrites a v, nofun, hlog hnext⟩
    | reg =>
      have hnext := State.memWrite_of_handler (f := State.regWrite) hg (by decide) (fun _ _ _ => rfl) v
      exact ⟨_, congrArg ofExcept hnext, nofun, nofun, nofun, nofun, nofun,
        fun _ => State.of_offReg (s.offReg_regWrites a v), hlog hnext⟩
  · have hpass : ¬ s.vdpFails a := fun hfails => ne_true_of_eq_false hfails.2 hvalid
    have hwriteBy : ∀ v, s.memWrite addr v = s.writeBy .vdp a v := fun v => by rw [State.memWrite_valid hpass, hvdp]
    refine ⟨fun d hlegal => ?_, fun hanswers => ?_, fun t ht => State.of_offVdp (State.memWrite_vdp_frame hvdp hvalid (ofExcept_next.mp ht))⟩
    · obtain ⟨t, ht⟩ := State.vdpWrite_of_legal hlegal a d
      exact ⟨t, ofExcept_next.mpr ((hwriteBy _).trans ((s.writeBy_toBus .vdp a d).trans ht))⟩
    · cases v with
      | byte b =>
        obtain ⟨t, ht, -⟩ := State.vdpWrite_of_startsNothing hanswers a (.byte b)
        exact ⟨t, ofExcept_next.mpr ((hwriteBy _).trans ht)⟩
      | word w =>
        obtain ⟨t, ht, -⟩ := State.vdpWrite_of_startsNothing hanswers a (.word w)
        exact ⟨t, ofExcept_next.mpr ((hwriteBy _).trans ht)⟩
      | long l =>
        obtain ⟨t, ht, hrest⟩ := State.vdpWrite_of_startsNothing hanswers a (.word (highWord l))
        obtain ⟨u, hu, -⟩ := State.vdpWrite_of_startsNothing hrest (a + 2#24) (.word (lowWord l))
        exact ⟨u, ofExcept_next.mpr ((hwriteBy _).trans ((State.writeBy_long (g := .vdp) ht).trans hu))⟩

end Sys2Proof.Machine
end

section
/-! PROOFS. The mapper's variants and its SRAM device (R161 to R171). -/

namespace Sys2Proof.Machine

/-! ## The linear fold (R161) -/

/-- The exponent of the smallest power of two that is at least `n`. -/
def ceilLog (n : Nat) : Nat := if n ≤ 1 then 0 else (n - 1).log2 + 1

theorem pow2Ceil_eq (n : Nat) : pow2Ceil n = 2 ^ ceilLog n := by
  unfold pow2Ceil ceilLog
  split <;> rfl

theorem le_pow_ceilLog (n : Nat) : n ≤ 2 ^ ceilLog n := by
  unfold ceilLog
  split
  · assumption
  · have := Nat.lt_log2_self (n := n - 1)
    omega

theorem ceilLog_le {n j : Nat} (h : n ≤ 2 ^ j) : ceilLog n ≤ j := by
  unfold ceilLog
  split
  · exact Nat.zero_le j
  · exact (Nat.log2_lt (by omega)).mpr (by omega)

/-- The smallest power of two not below `n` is less than twice `n`. -/
theorem pow_ceilLog_lt {n : Nat} (h : 1 ≤ n) : 2 ^ ceilLog n < 2 * n := by
  unfold ceilLog
  split
  · omega
  · have := Nat.log2_self_le (n := n - 1) (by omega)
    rw [Nat.pow_succ]
    omega

theorem linearIndex_of_lt {n p : Nat} (h : p < n) : linearIndex n p = p := if_pos h

/-- Above the size the address is masked, then folded once. -/
theorem linearIndex_of_le {n p : Nat} (h : n ≤ p) : linearIndex n p =
    if n - 1 < p % 2 ^ ceilLog n then p % 2 ^ ceilLog n - (n - 1) else p % 2 ^ ceilLog n := by
  rw [linearIndex, if_neg (Nat.not_lt.mpr h), pow2Ceil_eq, Nat.and_two_pow_sub_one_eq_mod]

/-- Settles O29: the mask leaves less than twice the size, so one fold by the size minus one lands inside the ROM. -/
theorem linearIndex_spec : Obligations.LinearIndex := by
  intro n p hn
  refine ⟨?_, linearIndex_of_lt, ceilLog n, le_pow_ceilLog n, fun j => ceilLog_le, fun hp hsmall => ?_, fun hp hlarge => ?_⟩
  · by_cases hp : p < n
    · rwa [linearIndex_of_lt hp]
    · have hmask := Nat.mod_lt p (Nat.two_pow_pos (ceilLog n))
      have hpow := pow_ceilLog_lt hn
      rw [linearIndex_of_le (Nat.not_lt.mp hp)]
      split <;> omega
  · rw [linearIndex_of_le hp, if_neg (Nat.not_lt.mpr hsmall)]
  · rw [linearIndex_of_le hp, if_pos hlarge]

/-! ## The linear and paged variants -/

/-- Settles O30: the variant's rows are selected, and each is its meaning. -/
theorem linearVariant : Obligations.LinearVariant := by
  intro s a val hv f
  have hsel : (s.mapper.variant == .linear) = true := beq_iff_eq.mpr hv
  refine ⟨if_pos hsel, if_pos hsel, if_pos hsel, fun b => if_pos hsel, fun w => if_pos hsel, fun l => if_pos hsel, s.linBanksel val,
    rfl, if_pos hsel, ?_⟩
  exact (by rw [execBankValue, hv] : execBankValue val s = .next (s.linBanksel val))

/-- Settles O31: as for the linear variant, through the window. -/
theorem pagedVariant : Obligations.PagedVariant := by
  intro s a val hv f
  have hsel : (s.mapper.variant == .paged) = true := beq_iff_eq.mpr hv
  refine ⟨if_pos hsel, if_pos hsel, if_pos hsel, fun b => if_pos hsel, fun w => if_pos hsel, fun l => if_pos hsel, s.pagBanksel val,
    rfl, if_pos hsel, ?_⟩
  exact (by rw [execBankValue, hv] : execBankValue val s = .next (s.pagBanksel val))

/-! ## The SRAM device (R171) -/

theorem exec_sramDev_read {s : State} {o : Overlay} {a : Addr} (ho : s.cfg.overlay = some o) (hkind : o.kind = .sram)
    (ha : s.cfg.inOverlay a = true) (n : Width) : exec (.sramDev a (.read n)) s = answered (s, s.sramRead o n a) := by
  have hrow : execSramDev a (.read n) s = answered (s, s.sramRead o n a) := by simp only [execSramDev, ho, hkind, ha, if_true]
  exact hrow

theorem exec_sramDev_write {s : State} {o : Overlay} {a : Addr} (ho : s.cfg.overlay = some o) (hkind : o.kind = .sram)
    (ha : s.cfg.inOverlay a = true) (v : Datum) : exec (.sramDev a (.write v)) s = .next (s.sramWrite o a v) := by
  have hrow : execSramDev a (.write v) s = .next (s.sramWrite o a v) := by simp only [execSramDev, ho, hkind, ha, if_true]
  exact hrow

theorem exec_sramDev_outside {s : State} {o : Overlay} {a : Addr} (ho : s.cfg.overlay = some o) (hkind : o.kind = .sram)
    (ha : ¬ s.cfg.inOverlay a = true) (acc : DevAccess) : exec (.sramDev a acc) s = .fault .sramIndexOutside := by
  have hrow : execSramDev a acc s = .fault .sramIndexOutside := by simp only [execSramDev, ho, hkind, if_true, if_neg ha]
  exact hrow

theorem exec_sramDev_absent {s : State} (h : ∀ o, s.cfg.overlay = some o → o.kind ≠ .sram) (a : Addr) (acc : DevAccess) :
    exec (.sramDev a acc) s = .refused .deviceAbsent := by
  have hrow : execSramDev a acc s = .refused .deviceAbsent := by
    unfold execSramDev
    split
    · rfl
    · next o ho => exact if_neg (h o ho)
  exact hrow

theorem State.sramWrite_frame (s : State) (o : Overlay) (a : Addr) (v : Datum) :
    s.sramWrite o a v = { s with sram := (s.sramWrite o a v).sram } := by
  cases v <;> rfl

/-- Settles O34: inside the overlay the device's read and the law of its stored bytes; outside it, and without SRAM, the row's two
refusals. -/
theorem sramDevice : Obligations.SramDevice := by
  refine fun s a v => ⟨fun o ho hkind hlo hhi => ?_, fun o acc ho hkind hout => ?_, fun acc hnone => ?_⟩
  · have ha : s.cfg.inOverlay a = true := inOverlay_iff.mpr ⟨o, ho, hlo, hhi⟩
    exact ⟨exec_sramDev_read ho hkind ha .byte, exec_sramDev_read ho hkind ha .word, s.sramWrite o a v,
      exec_sramDev_write ho hkind ha v, s.sramWrite_frame o a v, fun k => s.sramByte_sramWrite o a v k⟩
  · refine exec_sramDev_outside ho hkind (fun hin => ?_) acc
    obtain ⟨o', ho', hrange⟩ := inOverlay_iff.mp hin
    obtain rfl : o = o' := Option.some.inj (ho.symm.trans ho')
    exact hout hrange
  · exact exec_sramDev_absent hnone a acc

/-! ## The battery variant (R168 to R170) -/

theorem State.batRead_device {s : State} {o : Overlay} {a : Addr} (ho : s.cfg.overlay = some o) (ha : s.cfg.inOverlay a = true)
    (hmode : s.mapper.overlayMode ≠ .disabled) (n : Width) : s.batRead n a = s.devRead o n a := by
  rw [State.batRead, ho]
  exact if_pos ⟨ha, hmode⟩

theorem State.batRead_rom {s : State} {a : Addr} (h : s.cfg.inOverlay a = false ∨ s.mapper.overlayMode = .disabled) (n : Width) :
    s.batRead n a = s.linRead n a := by
  unfold State.batRead
  split
  · rfl
  · exact if_neg fun ⟨ha, hmode⟩ => h.elim (ne_false_of_eq_true ha) hmode

theorem State.batWrite_device {s : State} {o : Overlay} {a : Addr} (ho : s.cfg.overlay = some o) (ha : s.cfg.inOverlay a = true)
    (hmode : s.mapper.overlayMode = .readWrite) (v : Datum) : s.batWrite a v = s.devWrite o a v := by
  rw [State.batWrite, ho]
  exact if_pos ⟨ha, hmode⟩

theorem State.batWrite_protected {s : State} {a : Addr} (ha : s.cfg.inOverlay a = true)
    (hmode : s.mapper.overlayMode = .readOnly) (v : Datum) : s.batWrite a v = s.addLog .overlayWriteProtected (.addr a) := by
  obtain ⟨o, ho, -⟩ := inOverlay_iff.mp ha
  rw [State.batWrite, ho]
  simp [ha, hmode]

theorem State.batWrite_rom {s : State} {a : Addr} (h : s.cfg.inOverlay a = false ∨ s.mapper.overlayMode = .disabled) (v : Datum) :
    s.batWrite a v = s.romWrite a := by
  unfold State.batWrite
  split
  · rfl
  · obtain h | h := h <;> simp [h]

theorem BusConfig.hasSram_iff (cfg : BusConfig) : cfg.hasSram = true ↔ ∃ o, cfg.overlay = some o ∧ o.kind = .sram := by
  unfold BusConfig.hasSram
  cases cfg.overlay <;> simp

theorem BusConfig.hasEeprom_iff (cfg : BusConfig) : cfg.hasEeprom = true ↔ ∃ o, cfg.overlay = some o ∧ o.kind = .eeprom := by
  unfold BusConfig.hasEeprom
  cases cfg.overlay <;> simp

theorem exec_batRd {s : State} (hv : s.mapper.variant = .battery) (n : Size) (a : Addr) :
    exec (.batRd n a) s = .next (s.addReply (.data (splitRead s.batRead n a))) := if_pos (beq_iff_eq.mpr hv)

theorem exec_batWr {s : State} (hv : s.mapper.variant = .battery) (a : Addr) (v : BusDatum) :
    exec (.batWr a v) s = .next (splitWrite State.batWrite s a v) := if_pos (beq_iff_eq.mpr hv)

theorem splitRead_busSize (f : Width → Addr → Datum) (n : Width) (a : Addr) : splitRead f (busSize n) a = (f n a).toBus := by
  cases n <;> rfl

theorem splitWrite_toBus (f : State → Addr → Datum → State) (s : State) (a : Addr) (v : Datum) :
    splitWrite f s a v.toBus = f s a v := by
  cases v <;> rfl

/-- Settles O32: where the access goes, by overlay and mode; a LONG is the two WORDs of `splitRead` and `splitWrite`. -/
theorem batteryVariant : Obligations.BatteryVariant := by
  intro s a n v hv f
  have hread : exec (.batRd (busSize n) a) s = .next (s.addReply (.data (s.batRead n a).toBus)) := by
    rw [exec_batRd hv, splitRead_busSize]
  have hwrite : exec (.batWr a v.toBus) s = .next (s.batWrite a v) := by rw [exec_batWr hv, splitWrite_toBus]
  refine ⟨fun ha hmode => ⟨fun hdev => ?_, fun hdev => ?_⟩, fun hrom => ⟨?_, ?_⟩, fun ha hmode => ⟨fun hdev => ?_, fun hdev => ?_⟩,
    fun ha hmode => ?_, fun hrom => ?_, fun l => ?_, ?_⟩
  · obtain ⟨o, ho, hkind⟩ := (BusConfig.hasSram_iff s.cfg).mp hdev
    rw [hread, State.batRead_device ho ha hmode, State.devRead, hkind]
    exact ⟨_, rfl, exec_sramDev_read ho hkind ha n⟩
  · obtain ⟨o, ho, hkind⟩ := (BusConfig.hasEeprom_iff s.cfg).mp hdev
    rw [hread, State.batRead_device ho ha hmode, State.devRead, hkind]
    exact ⟨_, rfl, if_pos hdev⟩
  · rw [exec_batRd hv, splitRead, State.batRead_rom hrom]
    rfl
  · rw [exec_batRd hv, splitRead, State.batRead_rom hrom]
    rfl
  · obtain ⟨o, ho, hkind⟩ := (BusConfig.hasSram_iff s.cfg).mp hdev
    rw [hwrite, State.batWrite_device ho ha hmode, State.devWrite, hkind]
    exact ⟨_, rfl, exec_sramDev_write ho hkind ha v⟩
  · obtain ⟨o, ho, hkind⟩ := (BusConfig.hasEeprom_iff s.cfg).mp hdev
    rw [hwrite, State.batWrite_device ho ha hmode, State.devWrite, hkind]
    exact ⟨_, rfl, if_pos hdev⟩
  · rw [hwrite, State.batWrite_protected ha hmode]
    rfl
  · rw [hwrite, State.batWrite_rom hrom]
    rfl
  · have hnext : (s.batWrite a (.word (highWord l))).mapper.variant = .battery := by rw [State.mapper_batWrite, hv]
    exact ⟨_, _, exec_batWr hv _ _, exec_batWr hnext _ _, exec_batWr hv _ _⟩
  · have hword : ∀ x, ∃ w, s.batRead .word x = .word w := fun x => by
      rw [← State.mapRead_battery hv]
      exact s.readHandler_word .cart x
    obtain ⟨w1, hw1⟩ := hword a
    obtain ⟨w2, hw2⟩ := hword (a + 2#24)
    refine ⟨w1, w2, ?_, ?_, ?_⟩
    · rw [exec_batRd hv, splitRead, hw1]
      rfl
    · rw [exec_batRd hv, splitRead, hw2]
      rfl
    · rw [exec_batRd hv, splitRead, hw1, hw2]
      rfl

theorem and_twoPow_eq_zero_iff (val : Word) {k : Nat} (hk : k < 16) :
    val &&& BitVec.twoPow 16 k = 0#16 ↔ val.getLsbD k = false := by
  rw [BitVec.and_twoPow]
  cases val.getLsbD k
  · simp
  · have : 2 ^ k < 2 ^ 16 := Nat.pow_lt_pow_right (by decide) hk
    rw [if_pos rfl, ← BitVec.toNat_inj, BitVec.toNat_twoPow, Nat.mod_eq_of_lt this]
    simp

/-- The two control bits as the statement tests them. -/
theorem overlayModeOf_eq (val : Word) : overlayModeOf val =
    if val &&& 1#16 = 0#16 then .disabled else if val &&& 2#16 = 0#16 then .readWrite else .readOnly := by
  have henable : val &&& 1#16 = 0#16 ↔ val.getLsbD 0 = false := and_twoPow_eq_zero_iff val (k := 0) (by decide)
  have hprotect : val &&& 2#16 = 0#16 ↔ val.getLsbD 1 = false := and_twoPow_eq_zero_iff val (k := 1) (by decide)
  simp only [overlayModeOf, henable, hprotect]
  cases val.getLsbD 0 <;> cases val.getLsbD 1 <;> rfl

/-- Settles O33: the mode of the value's two bits, taken by the control row and by a write at either byte of its register. -/
theorem overlayControl : Obligations.OverlayControl := by
  intro s a val hv mode
  have hsel : (s.mapper.variant == .battery) = true := beq_iff_eq.mpr hv
  have hmode : overlayModeOf val = mode := overlayModeOf_eq val
  have hset : s.setOverlayMode val = { s with mapper := { s.mapper with overlayMode := mode } } := by
    rw [← hmode]
    rfl
  have hbank : exec (.batBanksel a val) s = .next (s.batBanksel a val) := if_pos hsel
  rw [hbank, ← hset]
  refine ⟨if_pos hsel, fun ha => ?_, fun ha => ?_⟩
  · exact congrArg Host.Outcome.next (if_pos ha)
  · exact congrArg Host.Outcome.next (if_neg ha)

end Sys2Proof.Machine
end

section
/-! PROOFS. The DMA and FIFO engine slot by slot (R222 to R231), and the arbiter's rows (R250 to R260, R293). -/

namespace Sys2Proof.Machine

/-! ## The ready edge and completion -/

theorem State.readyEdge_waits {s : State} (h : s.deferredQueue = [] ∨ s.vdpReady = false) : s.readyEdge = .ok s :=
  if_neg fun ⟨hready, hwaiting⟩ => h.elim hwaiting (ne_false_of_eq_true hready)

theorem State.readyEdge_drains {s : State} (hwaiting : s.deferredQueue ≠ []) (hready : s.vdpReady = true) :
    s.readyEdge = s.drain := if_pos ⟨hready, hwaiting⟩

theorem State.dmaComplete_active {s : State} (h : s.dma.lengthCounter ≠ 0) : s.dmaComplete = .ok s := if_neg h

theorem State.dmaComplete_ends {s : State} (h : s.dma.lengthCounter = 0) : s.dmaComplete = s.endTransfer.readyEdge := if_pos h

/-- With nothing deferred, completion at length 0 is the end of the transfer. -/
theorem State.dmaComplete_quiet {s : State} (h : s.dma.lengthCounter = 0) (hqueue : s.deferredQueue = []) :
    s.dmaComplete = .ok s.endTransfer := (State.dmaComplete_ends h).trans (State.readyEdge_waits (.inl hqueue))

/-- Settles O49: the two conditions of completion and the two of the ready edge. -/
theorem completionAndReadyEdge : Obligations.CompletionAndReadyEdge := by
  refine fun s => ⟨fun hlen => congrArg ofExcept (State.dmaComplete_active hlen), fun hlen => ⟨s.endTransfer, rfl, ?_, fun hwait => ?_⟩,
    fun hwait => congrArg ofExcept (State.readyEdge_waits hwait), fun hwaiting hready => ?_⟩
  · exact congrArg ofExcept (State.dmaComplete_ends hlen)
  · have hstays : s.endTransfer.deferredQueue = [] ∨ s.endTransfer.vdpReady = false :=
      hwait.imp id fun hfull => State.vdpReady_false_iff.mpr (.inl hfull)
    exact congrArg ofExcept ((State.dmaComplete_ends hlen).trans (State.readyEdge_waits hstays))
  · exact congrArg ofExcept (State.readyEdge_drains hwaiting hready)

/-! ## The FIFO -/

/-- Settles O47: the push has its room test, the drain of a non-empty queue is `popFifo` and then the ready edge. -/
theorem fifoPushAndDrain : Obligations.FifoPushAndDrain := by
  refine fun s target addr data => ⟨fun hroom => if_pos hroom, fun hfull => if_neg (Nat.not_lt.mpr hfull), fun hempty => ?_,
    fun e q hq => ⟨s.popFifo e q, rfl, ?_⟩⟩
  · exact congrArg ofExcept (by rw [State.fifoDrain, hempty] : s.fifoDrain = .ok s)
  · have hdrain : s.fifoDrain = (s.popFifo e q).readyEdge := by
      rw [State.fifoDrain, hq]
      rfl
    refine ⟨congrArg ofExcept hdrain, fun hwait => congrArg ofExcept (hdrain.trans (State.readyEdge_waits ?_))⟩
    exact hwait.imp id fun hbusy => State.vdpReady_false_iff.mpr (.inr hbusy)

/-- Settles O48: the status bits are the flags of R27, and each budget is its parameter. -/
theorem statusAndBudget : Obligations.StatusAndBudget := by
  refine fun s => ⟨?_, rfl, rfl, rfl, rfl⟩
  have hfull : s.fifoFull = decide (s.dma.fifoQueue.length = s.cfg.fifoCapacity) := by
    rw [Bool.eq_iff_iff, decide_eq_true_iff]
    exact beq_iff_eq
  have hbusy : s.m2vBusy = decide (s.dma.mode = .m68kToVram) := by
    rw [Bool.eq_iff_iff, decide_eq_true_iff]
    exact beq_iff_eq
  have hempty : s.dma.fifoQueue.isEmpty = decide (s.dma.fifoQueue = []) := by
    rw [Bool.eq_iff_iff, decide_eq_true_iff]
    exact List.isEmpty_iff
  rw [← hfull, ← hbusy, ← hempty]
  rfl

/-! ## Slots -/

/-- A slot row of the active mode is the mode's slot. -/
theorem State.slotRow_active {s : State} {mode : DmaMode} (h : s.dma.mode = mode) (hne : mode ≠ .none)
    (k : Except Refusal State) : s.slotRow mode k = ofExcept k :=
  (if_neg fun hnone => hne (h.symm.trans hnone)).trans (if_pos (beq_iff_eq.mpr h))

theorem State.slotRow_idle {s : State} (h : s.dma.mode = .none) (mode : DmaMode) (k : Except Refusal State) :
    s.slotRow mode k = .next s := if_pos h

theorem exec_dmaSlotFill {s : State} (h : s.dma.mode = .fill) : exec .dmaSlotFill s = exec .dmaComplete s.fillUnit :=
  State.slotRow_active h (by decide) _

theorem exec_dmaSlotCopy {s : State} (h : s.dma.mode = .copy) : exec .dmaSlotCopy s = ofExcept s.slotCopy :=
  State.slotRow_active h (by decide) _

theorem exec_dmaSlotM68k {s : State} (h : s.dma.mode = .m68kToVram) : exec .dmaSlotM68k s = ofExcept s.slotM68k :=
  State.slotRow_active h (by decide) _

/-- A unit that leaves a length goes on; the last one, with nothing deferred, ends the transfer. -/
theorem exec_dmaComplete_active {u : State} (h : u.dma.lengthCounter ≠ 0) : exec .dmaComplete u = .next u :=
  congrArg ofExcept (State.dmaComplete_active h)

theorem exec_dmaComplete_quiet {u : State} (h : u.dma.lengthCounter = 0) (hqueue : u.deferredQueue = []) :
    exec .dmaComplete u = .next u.endTransfer := congrArg ofExcept (State.dmaComplete_quiet h hqueue)

/-- Settles O44: each unit and then its completion, by what the unit leaves of the length. -/
theorem fillAndCopySlots : Obligations.FillAndCopySlots := by
  refine fun s => ⟨fun hidle => ⟨s.slotRow_idle hidle _ _, s.slotRow_idle hidle _ _, s.slotRow_idle hidle _ _⟩,
    fun hfill => ⟨s.fillUnit, rfl, exec_dmaSlotFill hfill, fun hlen => ?_, fun hlen hqueue => ?_⟩, fun hcopy hphase => ?_,
    fun hcopy hphase => ⟨s.copyUnit, rfl, ?_⟩⟩
  · exact (exec_dmaSlotFill hfill).trans (exec_dmaComplete_active (Nat.sub_ne_zero_of_lt hlen))
  · exact (exec_dmaSlotFill hfill).trans (exec_dmaComplete_quiet (Nat.sub_eq_zero_of_le hlen) hqueue)
  · rw [exec_dmaSlotCopy hcopy, State.slotCopy, if_neg (ne_true_of_eq_false hphase)]
    rfl
  · have hunit : exec .dmaSlotCopy s = exec .dmaComplete s.copyUnit :=
      (exec_dmaSlotCopy hcopy).trans (congrArg ofExcept (if_pos hphase))
    exact ⟨hunit, fun hlen => hunit.trans (exec_dmaComplete_active (Nat.sub_ne_zero_of_lt hlen)),
      fun hlen hqueue => hunit.trans (exec_dmaComplete_quiet (Nat.sub_eq_zero_of_le hlen) hqueue)⟩

/-- What a slot's source read keeps (R224): the engine, the deferred queue and the replies. -/
theorem State.sourceRead_keeps (s : State) : s.sourceRead.1.dma = s.dma ∧ s.sourceRead.1.deferredQueue = s.deferredQueue
    ∧ s.sourceRead.1.replies = s.replies := by
  have hframe : s.sourceRead.1.offRead = s.offRead := s.memRead_frame .word (s.dma.sourceAddress.setWidth 32)
  refine ⟨?_, ?_, ?_⟩
  · exact (congrArg State.dma hframe : s.sourceRead.1.offRead.dma = s.offRead.dma)
  · exact (congrArg State.deferredQueue hframe : s.sourceRead.1.offRead.deferredQueue = s.offRead.deferredQueue)
  · exact (congrArg State.replies hframe : s.sourceRead.1.offRead.replies = s.offRead.replies)

/-- A memory-to-VRAM unit: its phase slot, or its word's slot. -/
theorem State.slotM68k_phase {s : State} (ht : s.dma.target = .vram) (hphase : s.dma.slotPhase = false) :
    s.slotM68k = .ok { s with dma := { s.dma with slotPhase := true } } := if_pos ⟨ht, hphase⟩

theorem State.slotM68k_word {s : State} (h : s.dma.target ≠ .vram ∨ s.dma.slotPhase = true) :
    s.slotM68k = s.m68kUnit.dmaComplete :=
  if_neg fun ⟨ht, hphase⟩ => h.elim (· ht) (ne_true_of_eq_false hphase)

/-- Settles O45: the word's slot is the bus read of `sourceRead`, whose state has the engine as it was, and then the unit. -/
theorem busToVdpSlots : Obligations.BusToVdpSlots := by
  refine fun s hmode => ⟨fun ht hphase => ?_, fun hword => ?_⟩
  · exact (exec_dmaSlotM68k hmode).trans (congrArg ofExcept (State.slotM68k_phase ht hphase))
  · obtain ⟨hdma, hqueue, hreplies⟩ := s.sourceRead_keeps
    obtain ⟨w, hw⟩ := s.memRead_word (s.dma.sourceAddress.setWidth 32)
    have hunit : exec .dmaSlotM68k s = exec .dmaComplete s.m68kUnit :=
      (exec_dmaSlotM68k hmode).trans (congrArg ofExcept (State.slotM68k_word hword))
    have hlength : s.m68kUnit.dma.lengthCounter = s.dma.lengthCounter - 1 :=
      congrArg (fun d : DmaState => d.lengthCounter - 1) hdma
    refine ⟨s.sourceRead.1, s.m68kUnit, s.sourceRead.2, ?_, hreplies, hdma, ?_, hunit, fun hlen => ?_, fun hlen hempty => ?_⟩
    · have hdatum : s.sourceRead.2 = w := by rw [State.sourceRead, hw]
      rw [hdatum, ← hw]
      rfl
    · rw [← hdma]
      rfl
    · exact hunit.trans (exec_dmaComplete_active (hlength ▸ Nat.sub_ne_zero_of_lt hlen))
    · exact hunit.trans (exec_dmaComplete_quiet (hlength ▸ Nat.sub_eq_zero_of_le hlen) (hqueue.trans hempty))

/-! ## The arbiter -/

/-- Settles O51: each row is its update; the level and the request are read from the record it leaves. -/
theorem arbiterRows : Obligations.ArbiterRows := by
  intro s c e v h
  refine ⟨rfl, rfl, rfl, rfl, rfl, rfl, rfl, rfl, rfl, rfl, rfl, rfl, rfl, ?_, ⟨s.latchMain, rfl, ?_⟩, ⟨s.iack .main .v, rfl, rfl⟩,
    ⟨s.latchCo, rfl, ?_⟩, rfl, rfl⟩
  · rw [Bool.eq_iff_iff, decide_eq_true_iff]
    exact Bool.or_eq_true_iff
  · simp [State.mainIrqLevel, State.latchMain]
  · simp [State.coIrqRequest, State.latchCo, Bool.or_assoc, Bool.or_left_comm]

end Sys2Proof.Machine
end

section
/-! PROOFS. How long a transfer takes (R230). The slots left, `n`, are fixed by the length, the cost of a unit and the phase; every slot
takes one off, and the last one ends the transfer. -/

namespace Sys2Proof.Machine

/-- A transfer of this kind is active, nothing is deferred, and `n` slots are left. -/
structure State.Transfers (s : State) (k : DmaKind) (n : Nat) : Prop where
  mode : s.dma.mode = modeOf k
  busy : s.dma.busyFlag = true
  length : 1 ≤ s.dma.lengthCounter
  queue : s.deferredQueue = []
  phase : s.dma.slotPhase = true → slotCost k s.dma.target = 2
  left : s.dma.lengthCounter * slotCost k s.dma.target = n + if s.dma.slotPhase = true then 1 else 0

/-- The engine after `n` slots are left: idle with length 0 where there is none. -/
def State.SlotsLeft (s : State) (k : DmaKind) (n : Nat) : Prop :=
  (0 < n ∧ s.Transfers k n) ∨ (n = 0 ∧ s.dma.mode = .none ∧ s.dma.busyFlag = false ∧ s.dma.lengthCounter = 0)

theorem slotCost_cases (k : DmaKind) (t : VdpTarget) : slotCost k t = 1 ∨ slotCost k t = 2 := by
  cases k <;> cases t <;> decide

/-- The first slot of a two-slot unit sets the phase. -/
theorem State.Transfers.phaseSlot {s t : State} {k : DmaKind} {n : Nat} (h : s.Transfers k (n + 1))
    (hcost : slotCost k s.dma.target = 2) (hphase : s.dma.slotPhase = false)
    (ht : t.dma = { s.dma with slotPhase := true, copyLatch := t.dma.copyLatch }) (hqueue : t.deferredQueue = s.deferredQueue) :
    t.SlotsLeft k n := by
  obtain ⟨hmode, hbusy, hlength, hempty, -, hleft⟩ := h
  have htarget : slotCost k t.dma.target = 2 := by rw [ht]; exact hcost
  have hcount : t.dma.lengthCounter = s.dma.lengthCounter := by rw [ht]
  rw [hcost, hphase] at hleft
  simp only [Bool.false_eq_true, if_false] at hleft
  refine .inl ⟨by omega, ?_, ?_, by omega, hqueue.trans hempty, fun _ => htarget, ?_⟩
  · rw [ht]
    exact hmode
  · rw [ht]
    exact hbusy
  · rw [htarget, hcount, hleft, ht, if_pos rfl]

/-- The last slot of a unit takes one off the length, and ends the transfer where that was the last. -/
theorem State.Transfers.unitSlot {s u : State} {k : DmaKind} {n : Nat} (h : s.Transfers k (n + 1))
    (hlast : s.dma.slotPhase = true ∨ slotCost k s.dma.target = 1)
    (hu : u.dma = { s.dma with
      sourceAddress := u.dma.sourceAddress
      destinationAddress := u.dma.destinationAddress
      lengthCounter := s.dma.lengthCounter - 1
      slotPhase := false }) (hqueue : u.deferredQueue = s.deferredQueue) :
    ∃ t, exec .dmaComplete u = .next t ∧ t.SlotsLeft k n := by
  obtain ⟨hmode, hbusy, hlength, hempty, hphase, hleft⟩ := h
  have htarget : u.dma.target = s.dma.target := by rw [hu]
  have hcount : u.dma.lengthCounter = s.dma.lengthCounter - 1 := by rw [hu]
  have hunit : s.dma.lengthCounter * slotCost k s.dma.target = n + slotCost k s.dma.target := by
    rw [hleft]
    obtain hp | hc := hlast
    · rw [hphase hp, if_pos hp]
    · rw [hc, if_neg fun hp => by simp [hphase hp] at hc]
  by_cases hmore : u.dma.lengthCounter = 0
  · refine ⟨u.endTransfer, exec_dmaComplete_quiet hmore (hqueue.trans hempty), .inr ⟨?_, rfl, rfl, hmore⟩⟩
    obtain rfl | hone : n = 0 ∨ s.dma.lengthCounter = 1 := by omega
    · rfl
    · rw [hone] at hunit
      omega
  · refine ⟨u, exec_dmaComplete_active hmore, .inl ⟨?_, ?_, ?_, by omega, hqueue.trans hempty, ?_, ?_⟩⟩
    · obtain hc | hc := slotCost_cases k s.dma.target <;> rw [hc] at hunit <;> omega
    · rw [hu]
      exact hmode
    · rw [hu]
      exact hbusy
    · rw [hu]
      exact nofun
    · rw [htarget, hcount, Nat.sub_mul, hunit, hu]
      simp

/-- Every slot takes one off the slots left. -/
theorem State.Transfers.slot {s : State} {k : DmaKind} {n : Nat} (h : s.Transfers k (n + 1)) :
    ∃ t, exec (slotRowOf k) s = .next t ∧ t.SlotsLeft k n := by
  cases k with
  | fill =>
    have hphase : s.dma.slotPhase = false := Bool.eq_false_iff.mpr fun hp => absurd (h.phase hp) (by simp [slotCost])
    obtain ⟨t, ht, hleft⟩ := h.unitSlot (u := s.fillUnit) (.inr rfl) (by rw [← hphase]; rfl) rfl
    exact ⟨t, (exec_dmaSlotFill h.mode).trans ht, hleft⟩
  | copy =>
    have hrow : exec (slotRowOf .copy) s = ofExcept s.slotCopy := exec_dmaSlotCopy h.mode
    rw [hrow, State.slotCopy]
    cases hphase : s.dma.slotPhase
    · exact ⟨s.copyFetch, rfl, h.phaseSlot rfl hphase rfl rfl⟩
    · exact h.unitSlot (u := s.copyUnit) (.inl hphase) rfl rfl
  | m68kToVram =>
    have hrow : exec (slotRowOf .m68kToVram) s = ofExcept s.slotM68k := exec_dmaSlotM68k h.mode
    rw [hrow]
    by_cases hfirst : s.dma.target = .vram ∧ s.dma.slotPhase = false
    · rw [State.slotM68k_phase hfirst.1 hfirst.2]
      exact ⟨_, rfl, h.phaseSlot (by rw [hfirst.1]; rfl) hfirst.2 rfl rfl⟩
    · obtain ⟨hdma, hqueue, -⟩ := s.sourceRead_keeps
      have hword : s.dma.target ≠ .vram ∨ s.dma.slotPhase = true := by
        rwa [not_and_or, Bool.not_eq_false] at hfirst
      have hlast : s.dma.slotPhase = true ∨ slotCost .m68kToVram s.dma.target = 1 :=
        hword.symm.imp_right fun ht => by cases hs : s.dma.target <;> simp_all [slotCost]
      rw [State.slotM68k_word hword]
      exact h.unitSlot (u := s.m68kUnit) hlast (by rw [State.m68kUnit, ← hdma]) hqueue

/-- After `m` slots, `n - m` are left. -/
theorem State.SlotsLeft.slots (m : Nat) {s : State} {k : DmaKind} {n : Nat} (h : s.SlotsLeft k n) (hmn : m ≤ n) :
    ∃ t, execAll (List.replicate m (slotRowOf k)) s = .next t ∧ t.SlotsLeft k (n - m) := by
  induction m generalizing s n with
  | zero => exact ⟨s, rfl, h⟩
  | succ m ih =>
    cases n with
    | zero => omega
    | succ n =>
      obtain ⟨-, hactive⟩ | ⟨hzero, -⟩ := h
      · obtain ⟨t, ht, hleft⟩ := hactive.slot
        obtain ⟨u, hu, hrest⟩ := ih hleft (Nat.le_of_succ_le_succ hmn)
        refine ⟨u, ?_, by rwa [Nat.succ_sub_succ]⟩
        rw [List.replicate_succ, execAll, ht]
        exact hu
      · omega

theorem State.transfers_loadDma {s : State} {o : DmaOperands} (hlen : 1 ≤ o.length) (hqueue : s.deferredQueue = []) :
    (s.loadDma o).Transfers o.mode (o.length * slotCost o.mode o.target) where
  mode := rfl
  busy := rfl
  length := hlen
  queue := hqueue
  phase := nofun
  left := by
    simp only [State.loadDma]
    cases o.mode <;> simp [slotCost]

/-- Settles O46: the start leaves the whole transfer's slots, and each slot takes one off. -/
theorem transferTakesTotalSlots : Obligations.TransferTakesTotalSlots := by
  intro s o k hlen hmode hqueue hk
  have hpos : 0 < o.length * slotCost o.mode o.target := by
    obtain hc | hc := slotCost_cases o.mode o.target <;> rw [hc] <;> omega
  obtain ⟨t, ht, hleft⟩ := State.SlotsLeft.slots k (.inl ⟨hpos, s.transfers_loadDma hlen hqueue⟩) hk
  refine ⟨t, ?_, fun hlt => ?_, fun heq => ?_⟩
  · have hstart : exec (.dmaStart o) s = .next (s.loadDma o) := congrArg ofExcept (State.startDma_ok.mpr ⟨⟨hlen, hmode⟩, rfl⟩)
    rw [execAll, hstart]
    exact ht
  · obtain ⟨-, hactive⟩ | ⟨hzero, -⟩ := hleft
    · exact ⟨hactive.mode, hactive.busy, hactive.length⟩
    · omega
  · obtain ⟨hmore, -⟩ | ⟨-, hidle⟩ := hleft
    · omega
    · exact hidle

end Sys2Proof.Machine
end

section
/-! PROOFS. The drain of the deferred queue (R253, R254, R118). The entries are replayed one after the other; `forwarded` is what a
stretch of forwarded entries leaves, and stretches compose. -/

namespace Sys2Proof.Machine

/-! ## What a queue forwards -/

theorem portWrites_append (p q : List DeferredWrite) : portWrites (p ++ q) = portWrites p ++ portWrites q := List.filter_append ..

theorem dataWrites_append (p q : List DeferredWrite) : dataWrites (p ++ q) = dataWrites p ++ dataWrites q := List.filter_append ..

theorem dropEvents_append (p q : List DeferredWrite) : dropEvents (p ++ q) = dropEvents p ++ dropEvents q := by
  simp only [dropEvents, List.filter_append, List.map_append]

/-- A data write has a port. -/
theorem dataWrites_portWrites (q : List DeferredWrite) : dataWrites (portWrites q) = dataWrites q := by
  rw [dataWrites, portWrites, List.filter_filter]
  refine List.filter_congr fun e _ => ?_
  unfold reachesPort
  cases vdpOffsetOf e.addr <;> rfl

theorem portWrites_single {e : DeferredWrite} (h : reachesPort e = true) : portWrites [e] = [e] := by simp [portWrites, h]

theorem dropEvents_single {e : DeferredWrite} (h : reachesPort e = true) : dropEvents [e] = [] := by simp [dropEvents, h]

theorem portOf_eq_data {a : Addr} : portOf a = .data ↔ vdpOffsetOf a = .data := by
  unfold portOf vdpOffsetOf
  split_ifs <;> simp

/-- The state after the entries `q` reached their ports or were dropped, with the engine they left. -/
def State.forwarded (s : State) (q : List DeferredWrite) (d : DmaState) : State :=
  { s with
    log := s.log ++ dropEvents q
    calls := s.calls ++ (portWrites q).map (fun e => .writeVdpPortWord (portOf e.addr) e.data.mirrored)
    inputs := { s.inputs with port := s.inputs.port.drop (portWrites q).length }
    draws := s.draws + (portWrites q).length
    dma := d }

theorem State.forwarded_forwarded (s : State) (p q : List DeferredWrite) (d e : DmaState) :
    (s.forwarded p d).forwarded q e = s.forwarded (p ++ q) e := by
  simp [State.forwarded, portWrites_append, dropEvents_append, Nat.add_assoc]

theorem State.forwarded_nil (s : State) : s.forwarded [] s.dma = s := by
  simp [State.forwarded, portWrites, dropEvents]

/-- The FIFO took the data words of `q`, in order. -/
def FifoTakes (d : DmaState) (q : List DeferredWrite) (e : DmaState) : Prop :=
  e.fifoQueue.map FifoEntry.data = d.fifoQueue.map FifoEntry.data ++ (dataWrites q).map (fun x => x.data.mirrored)

theorem FifoTakes.trans {d e f : DmaState} {p q : List DeferredWrite} (h : FifoTakes d p e) (h' : FifoTakes e q f) :
    FifoTakes d (p ++ q) f := by
  unfold FifoTakes at h h' ⊢
  rw [h', h, dataWrites_append, List.map_append, List.append_assoc]

theorem FifoTakes.length {d e : DmaState} {q : List DeferredWrite} (h : FifoTakes d q e) :
    e.fifoQueue.length = d.fifoQueue.length + (dataWrites q).length := by
  simpa using congrArg List.length h

/-- The engine of the first state changed in its queue alone, so the start's effect is the same from either. -/
theorem DmaAfter.of_fifo {d d' e e' : DmaState} {start : Option DmaOperands} (h : DmaAfter d' start e')
    (hd : d' = { d with fifoQueue := d'.fifoQueue }) (he : e = { e' with fifoQueue := e.fifoQueue }) : DmaAfter d start e := by
  cases start with
  | none =>
    have h' : e' = { d' with fifoQueue := e'.fifoQueue } := h
    exact (by rw [he, h', hd] : e = { d with fifoQueue := e.fifoQueue })
  | some o =>
    simp only [DmaAfter] at h ⊢
    have hlatch : d'.copyLatch = d.copyLatch := by rw [hd]
    rw [he, h, hlatch]

/-! ## The VDP's answers and the FIFO's room -/

/-- The answer to the `k`-th word forwarded from here. -/
def State.answerAt (s : State) (k : Nat) : PortAnswer := (s.inputs.port.drop k).headD (Config.freePortAnswer (s.draws + k))

theorem State.answerAt_zero (s : State) : s.answerAt 0 = s.portAnswer := rfl

theorem State.answerAt_forwarded (s : State) (q : List DeferredWrite) (d : DmaState) (k : Nat) :
    (s.forwarded q d).answerAt k = s.answerAt ((portWrites q).length + k) := by
  simp [State.answerAt, State.forwarded, Nat.add_assoc]

/-- The FIFO is not full at the turn of any entry that has a port. -/
def State.Fits (s : State) (q : List DeferredWrite) : Prop :=
  ∀ p e r, q = p ++ e :: r → reachesPort e = true → s.dma.fifoQueue.length + (dataWrites p).length < s.cfg.fifoCapacity

theorem State.Fits.left {s : State} {p q : List DeferredWrite} (h : s.Fits (p ++ q)) : s.Fits p := fun u e r hp =>
  h u e (r ++ q) (by rw [hp, List.append_assoc, List.cons_append])

theorem State.Fits.right {s : State} {p q : List DeferredWrite} {d : DmaState} (h : s.Fits (p ++ q)) (hd : FifoTakes s.dma p d) :
    (s.forwarded p d).Fits q := fun u e r hq he => by
  have hroom := h (p ++ u) e r (by rw [hq, List.append_assoc]) he
  rw [dataWrites_append, List.length_append, ← Nat.add_assoc, ← hd.length] at hroom
  exact hroom

theorem State.vdpReady_of_room {s : State} (hmode : s.dma.mode ≠ .m68kToVram) (hroom : s.dma.fifoQueue.length < s.cfg.fifoCapacity) :
    s.vdpReady = true := by
  refine Bool.eq_true_of_not_eq_false fun hbusy => ?_
  obtain hfull | hm2v := State.vdpReady_false_iff.mp hbusy
  · exact absurd hfull (Nat.ne_of_lt hroom)
  · exact hmode hm2v

/-! ## Replaying -/

theorem State.replay_append {s t : State} {p : List DeferredWrite} (h : s.replay p = .ok t) (q : List DeferredWrite) :
    s.replay (p ++ q) = t.replay q := by
  induction p generalizing s with
  | nil =>
    cases h
    rfl
  | cons e p ih =>
    simp only [List.cons_append, State.replay] at h ⊢
    cases hw : s.vdpWrite e.addr e.data <;> simp only [hw] at h ⊢
    · cases h
    · exact ih h

theorem State.replay_single (s : State) (e : DeferredWrite) : s.replay [e] = s.vdpWrite e.addr e.data := by
  simp only [State.replay]
  cases s.vdpWrite e.addr e.data <;> rfl

theorem State.vdpWrite_forward {s : State} {e : DeferredWrite} (he : reachesPort e = true) (hready : s.vdpReady = true) :
    s.vdpWrite e.addr e.data = s.portWrite (portOf e.addr) e.data.mirrored := by
  obtain ho | ho := (reachesPort_iff e).mp he <;> simp [State.vdpWrite, State.vdpForward, ho, hready]

/-- One entry at its turn, its answer a legal one. -/
theorem State.replay_port {s : State} {e : DeferredWrite} (he : reachesPort e = true) (hready : s.vdpReady = true)
    (hlegal : s.AnswerLegal) : ∃ d, s.replay [e] = .ok (s.forwarded [e] d) ∧ DmaAfter s.dma s.portAnswer.start d
      ∧ FifoTakes s.dma [e] d := by
  refine ⟨((s.handOver (portOf e.addr) e.data.mirrored).answerStart s.portAnswer.start).dma, ?_, ?_, ?_⟩
  · rw [State.replay_single, State.vdpWrite_forward he hready, State.portWrite_of_legal hlegal, State.forwarded, portWrites_single he,
      dropEvents_single he]
    cases s.portAnswer.start <;> cases hp : portOf e.addr <;>
      simp [hp, State.answerStart, State.loadDma, State.handOver, State.pushFifo, State.askPort, State.ask]
  · refine s.dmaAfter_answerStart _ ?_ _
    cases portOf e.addr <;> rfl
  · unfold FifoTakes
    cases hp : portOf e.addr
    · have hdata : dataWrites [e] = [e] := by simp [dataWrites, portOf_eq_data.mp hp]
      rw [hdata]
      cases s.portAnswer.start <;> simp [State.answerStart, State.loadDma, State.handOver, State.askPort]
    · have hdata : dataWrites [e] = [] := by
        have hne : vdpOffsetOf e.addr ≠ .data := fun ho => by simp [portOf_eq_data.mpr ho] at hp
        simp [dataWrites, hne]
      rw [hdata]
      cases s.portAnswer.start <;> simp [State.answerStart, State.loadDma, State.handOver, State.askPort]

/-- A dropped entry is a stretch that forwards nothing. -/
theorem State.replay_dropped {s : State} {e : DeferredWrite} (he : reachesPort e = false) :
    s.replay [e] = .ok (s.forwarded [e] s.dma) := by
  rw [State.replay_single, State.vdpWrite_no_port s e he]
  simp [State.forwarded, portWrites, dropEvents, he]

/-- While the FIFO has room and no answer starts a transfer, every entry is forwarded or dropped. -/
theorem State.replay_forwards (q : List DeferredWrite) {s : State} (hmode : portWrites q ≠ [] → s.dma.mode ≠ .m68kToVram)
    (hfits : s.Fits q) (hanswers : ∀ k, k < (portWrites q).length → (s.answerAt k).start = none) :
    ∃ d, s.replay q = .ok (s.forwarded q d) ∧ d = { s.dma with fifoQueue := d.fifoQueue } ∧ FifoTakes s.dma q d := by
  induction q generalizing s with
  | nil => exact ⟨s.dma, by rw [State.forwarded_nil, State.replay], rfl, by simp [FifoTakes, dataWrites]⟩
  | cons e q ih =>
    have hsplit : e :: q = [e] ++ q := rfl
    have hfirst : ∃ d, s.replay [e] = .ok (s.forwarded [e] d) ∧ d = { s.dma with fifoQueue := d.fifoQueue } ∧ FifoTakes s.dma [e] d := by
      cases he : reachesPort e
      · refine ⟨s.dma, State.replay_dropped he, rfl, ?_⟩
        have hdata : dataWrites [e] = [] := by rw [← dataWrites_portWrites]; simp [portWrites, he, dataWrites]
        simp [FifoTakes, hdata]
      · have hports : portWrites (e :: q) = e :: portWrites q := by simp [portWrites, he]
        have hnone : s.portAnswer.start = none := hanswers 0 (by simp [hports])
        have hready := State.vdpReady_of_room (hmode (by simp [hports])) (by simpa [dataWrites] using hfits [] e q rfl he)
        obtain ⟨d, hd, hafter, htakes⟩ := State.replay_port he hready (.of_none hnone)
        rw [hnone] at hafter
        exact ⟨d, hd, hafter, htakes⟩
    obtain ⟨d, hd, hdma, htakes⟩ := hfirst
    have hrest := ih (s := s.forwarded [e] d) (fun hne => ?_) (State.Fits.right (hsplit ▸ hfits) htakes) (fun k hk => ?_)
    · obtain ⟨d', hd', hdma', htakes'⟩ := hrest
      refine ⟨d', ?_, ?_, htakes.trans htakes'⟩
      · rw [hsplit, State.replay_append hd, hd', State.forwarded_forwarded]
      · rw [hdma']
        exact congrArg (fun x : DmaState => { x with fifoQueue := d'.fifoQueue }) hdma
    · have hmode' : d.mode = s.dma.mode := by rw [hdma]
      have hports : portWrites (e :: q) ≠ [] := by rw [hsplit, portWrites_append]; simp [hne]
      exact hmode'.trans_ne (hmode hports)
    · rw [State.answerAt_forwarded]
      refine hanswers _ ?_
      rw [hsplit, portWrites_append, List.length_append]
      omega

theorem modeOf_eq_m68k {k : DmaKind} : modeOf k = .m68kToVram ↔ k = .m68kToVram := by
  cases k <;> decide

/-- The same where one answer, to `e`, may start a transfer. -/
theorem State.replay_forwards_start {s : State} {p m : List DeferredWrite} {e : DeferredWrite} {start : Option DmaOperands}
    (he : reachesPort e = true) (hmode : s.dma.mode ≠ .m68kToVram) (hfits : s.Fits (p ++ e :: m))
    (hquiet : ∀ k, k < (portWrites (p ++ e :: m)).length → k ≠ (portWrites p).length → (s.answerAt k).start = none)
    (hstart : start = (s.answerAt (portWrites p).length).start)
    (hlegal : ∀ o, start = some o → 1 ≤ o.length ∧ s.dma.mode = .none)
    (hlast : (∃ o, start = some o ∧ o.mode = .m68kToVram) → portWrites m = []) :
    ∃ d, s.replay (p ++ e :: m) = .ok (s.forwarded (p ++ e :: m) d) ∧ DmaAfter s.dma start d ∧ FifoTakes s.dma (p ++ e :: m) d := by
  have hlen : (portWrites (p ++ e :: m)).length = (portWrites p).length + (1 + (portWrites m).length) := by
    rw [portWrites_append, List.length_append, ← List.singleton_append, portWrites_append, portWrites_single he, List.length_append]
    rfl
  obtain ⟨d1, hd1, hdma1, htakes1⟩ := State.replay_forwards p (fun _ => hmode) hfits.left fun k hk =>
    hquiet k (by omega) (by omega)
  have hmode1 : d1.mode = s.dma.mode := by rw [hdma1]
  have hroom := State.Fits.right hfits htakes1
  have hready : (s.forwarded p d1).vdpReady = true := State.vdpReady_of_room (hmode1.trans_ne hmode)
    (by simpa [dataWrites] using hroom [] e m rfl he)
  have hanswer : (s.forwarded p d1).portAnswer.start = start := by
    rw [← State.answerAt_zero, State.answerAt_forwarded, Nat.add_zero, hstart]
  obtain ⟨d2, hd2, hafter2, htakes2⟩ := State.replay_port he hready fun o ho => by
    obtain ⟨hlen, hidle⟩ := hlegal o (hanswer.symm.trans ho)
    exact ⟨hlen, hmode1.trans hidle⟩
  rw [State.forwarded_forwarded] at hd2
  rw [hanswer] at hafter2
  have htakes12 : FifoTakes s.dma (p ++ [e]) d2 := htakes1.trans htakes2
  have hsplit : p ++ e :: m = (p ++ [e]) ++ m := by simp
  have hrest := State.replay_forwards m (s := s.forwarded (p ++ [e]) d2) (fun hne hm2v => ?_)
    (State.Fits.right (hsplit ▸ hfits) htakes12) (fun k hk => ?_)
  · obtain ⟨d3, hd3, hdma3, htakes3⟩ := hrest
    refine ⟨d3, ?_, hafter2.of_fifo hdma1 hdma3, ?_⟩
    · have hpe : s.replay (p ++ [e]) = .ok (s.forwarded (p ++ [e]) d2) := (State.replay_append hd1 [e]).trans hd2
      rw [hsplit, State.replay_append hpe, hd3, State.forwarded_forwarded]
    · rw [hsplit]
      exact htakes12.trans htakes3
  · have hmode2 : d2.mode = .m68kToVram := hm2v
    cases start with
    | none =>
      have h2 : d2 = { d1 with fifoQueue := d2.fifoQueue } := hafter2
      rw [h2] at hmode2
      exact hmode (hmode1.symm.trans hmode2)
    | some o =>
      have h2 : d2.mode = modeOf o.mode := by rw [hafter2]
      exact hne (hlast ⟨o, rfl, modeOf_eq_m68k.mp (h2.symm.trans hmode2)⟩)
  · rw [State.answerAt_forwarded, portWrites_append, portWrites_single he, List.length_append]
    exact hquiet _ (by rw [hlen]; simp only [List.length_singleton]; omega) (by simp only [List.length_singleton]; omega)

/-! ## The drain -/

/-- The drain is the replay on the emptied queue, and then the flag (R253, R254). -/
theorem exec_arbDrain {s t : State} (h : { s with deferredQueue := [] }.replay s.deferredQueue = .ok t) :
    exec .arbDrain s = .next t.redeferred := by
  have hdrain : s.drain = .ok t.redeferred := by rw [State.drain, h]
  exact congrArg ofExcept hdrain

theorem exec_arbDrain_refused {s : State} {r : Refusal} (h : { s with deferredQueue := [] }.replay s.deferredQueue = .error r) :
    exec .arbDrain s = .refused r := by
  have hdrain : s.drain = .error r := by rw [State.drain, h]
  exact congrArg ofExcept hdrain

/-- A drain that forwards `q` and leaves `r` waiting. -/
theorem exec_arbDrain_stretch {s : State} {q r : List DeferredWrite} {d : DmaState} (hqueue : s.deferredQueue = q ++ r)
    (hforward : { s with deferredQueue := [] }.replay q = .ok ({ s with deferredQueue := [] }.forwarded q d))
    (hwait : ({ s with deferredQueue := [] }.forwarded q d).vdpReady = false ∨ portWrites r = []) :
    exec .arbDrain s = .next { s.forwarded q d with
      deferredQueue := portWrites r
      logicError := s.logicError || !(portWrites r).isEmpty
      log := s.log ++ dropEvents s.deferredQueue ++ redeferEvents (portWrites r) } := by
  have hreplay := (State.replay_append hforward r).trans (State.replay_waits r _ hwait)
  rw [← hqueue] at hreplay
  rw [exec_arbDrain hreplay, State.redeferred_eq, hqueue, dropEvents_append]
  simp [State.forwarded]

/-- The rows VDP.WR of the entries, one after the other, are the replay. -/
theorem execAll_vdpWrs (q : List DeferredWrite) {s : State} (h : ∀ e ∈ q, s.region e.addr = .vdp ∧ vdpValid s.cfg e.addr = true) :
    execAll (q.map fun e => .vdpWr e.addr e.data) s = ofExcept (s.replay q) := by
  induction q generalizing s with
  | nil => rfl
  | cons e q ih =>
    obtain ⟨hvdp, hvalid⟩ := h e List.mem_cons_self
    simp only [List.map_cons, execAll, State.replay, exec_vdpWr_of_valid hvdp hvalid]
    cases hw : s.vdpWrite e.addr e.data with
    | error r => rfl
    | ok t =>
      have hframe := State.of_offVdp (State.vdpWrite_frame hw)
      have hregion : ∀ a, t.region a = s.region a := fun a => by rw [hframe]; rfl
      have hcfg : t.cfg = s.cfg := by rw [hframe]
      exact ih fun x hx => by
        rw [hregion, hcfg]
        exact h x (List.mem_cons_of_mem e hx)

/-- Settles O50: a stretch that is forwarded, a rest that waits, and the flag; the first clause is the second with no start and no
rest, the third has nothing forwarded, the fourth is the replay row by row. -/
theorem drainKeepsOrder : Obligations.DrainKeepsOrder := by
  intro s
  refine ⟨fun hmode hfits hanswers => ?_, ?_, fun hwait => ?_, fun hvdp => ⟨fun t ht => ?_, fun r hr => ?_⟩⟩
  · obtain ⟨d, hd, hdma, htakes⟩ := State.replay_forwards s.deferredQueue (s := { s with deferredQueue := [] }) (fun _ => hmode)
      hfits hanswers
    refine ⟨_, exec_arbDrain_stretch (r := []) (List.append_nil _).symm hd (.inr rfl), ?_, htakes⟩
    have hlog : redeferEvents [] = [] := rfl
    simp [State.forwarded, portWrites, hlog, ← hdma]
  · intro p e m r start done startsM2v hqueue he hmode hfits hquiet hstart hlegal hlast hrest
    have hdone : dataWrites done = dataWrites (p ++ e :: m) := dataWrites_portWrites _
    obtain ⟨d, hd, hafter, htakes⟩ := State.replay_forwards_start (s := { s with deferredQueue := [] }) he hmode hfits hquiet hstart
      hlegal hlast
    have hwait : ({ s with deferredQueue := [] }.forwarded (p ++ e :: m) d).vdpReady = false ∨ portWrites r = [] := by
      obtain hnone | hfull | ⟨o, rfl, ho⟩ := hrest
      · exact .inr hnone
      · refine .inl (State.vdpReady_false_iff.mpr (.inl ?_))
        rw [hdone] at hfull
        exact htakes.length.trans hfull
      · refine .inl (State.vdpReady_false_iff.mpr (.inr ?_))
        have hloaded : d.mode = modeOf o.mode := by rw [hafter]
        exact hloaded.trans (modeOf_eq_m68k.mpr ho)
    refine ⟨_, exec_arbDrain_stretch hqueue hd hwait, rfl, hafter, ?_⟩
    rw [hdone]
    exact htakes
  · rw [exec_arbDrain (State.replay_waits _ _ hwait), State.redeferred_eq]
    rfl
  · rw [execAll_vdpWrs s.deferredQueue (s := { s with deferredQueue := [] }) hvdp] at ht
    rw [exec_arbDrain (ofExcept_next.mp ht), State.redeferred_eq]
  · rw [execAll_vdpWrs s.deferredQueue (s := { s with deferredQueue := [] }) hvdp] at hr
    refine exec_arbDrain_refused ?_
    cases hreplay : { s with deferredQueue := [] }.replay s.deferredQueue <;> rw [hreplay] at hr
    · exact congrArg Except.error (Host.Outcome.refused.inj hr)
    · cases hr

end Sys2Proof.Machine
end

section
/-! PROOFS. The scheduler's tick (R271 to R277): one equation for each thing a part of it can do, and the tick from its parts. -/

namespace Sys2Proof.Machine

/-! ## The parts -/

theorem State.tickMain_notDue {s : State} (h : s.sched.nextMain ≠ s.sched.masterTick) : s.tickMain = .ok s := if_neg h

theorem State.tickMain_frozen {s : State} (h : s.sched.nextMain = s.sched.masterTick) (hfrozen : s.mainCpuFrozen = true) :
    s.tickMain = .ok { s with sched := { s.sched with nextMain := s.sched.nextMain + s.cfg.divMain } } := by
  have hstopped : ¬ s.mainRunning = true := by simp [State.mainRunning, hfrozen]
  rw [State.tickMain, if_pos h, if_neg hstopped]

/-- The end of the main CPU's unit: the penalty taken, the latch, the due tick (R271, R272). -/
def State.mainDone (s : State) (div cycles : Nat) : State :=
  { s with
    penalty := ⟨0, s.penalty.co⟩
    pendingMain := ⟨s.pendingMain.v || s.vdpVLine, s.pendingMain.h || s.vdpHLine⟩
    sched := { s.sched with nextMain := s.sched.nextMain + div * max 1 (cycles + s.penalty.main) } }

theorem State.tickMain_runs {s s1 : State} (h : s.sched.nextMain = s.sched.masterTick) (hrunning : s.mainCpuFrozen = false)
    (hunit : s.askMainUnit.runMain s.mainUnit.ops = .ok s1) :
    s.tickMain = .ok (if s1.fatal.isSome then s1 else s1.mainDone s.cfg.divMain s.mainUnit.cycles) := by
  have hgoes : s.mainRunning = true := by simp [State.mainRunning, hrunning]
  rw [State.tickMain, if_pos h, if_pos hgoes, hunit]
  dsimp only
  split <;> rfl

theorem State.tickCo_notDue {s : State} (h : s.sched.nextCo ≠ s.sched.masterTick) : s.tickCo = s := if_neg h

theorem State.coRunnable_iff {s : State} :
    s.coRunnable = true ↔ s.coCpuResetAsserted = false ∧ s.coCpuBusRequested = false := by
  simp [State.coRunnable]

theorem State.tickCo_held {s : State} (h : s.sched.nextCo = s.sched.masterTick)
    (hheld : ¬ (s.coCpuResetAsserted = false ∧ s.coCpuBusRequested = false)) :
    s.tickCo = { s with sched := { s.sched with nextCo := s.sched.nextCo + s.cfg.divCo } } := by
  rw [State.tickCo, if_pos h, if_neg (State.coRunnable_iff.not.mpr hheld)]

/-- The end of the co-CPU's unit. -/
def State.coDone (s : State) (div cycles : Nat) : State :=
  { s with
    penalty := ⟨s.penalty.main, 0⟩
    pendingCo := ⟨s.pendingCo.v || s.vdpVLine, s.pendingCo.h || s.vdpHLine⟩
    sched := { s.sched with nextCo := s.sched.nextCo + div * max 1 (cycles + s.penalty.co) } }

theorem State.tickCo_runs {s : State} (h : s.sched.nextCo = s.sched.masterTick)
    (hruns : s.coCpuResetAsserted = false ∧ s.coCpuBusRequested = false) :
    s.tickCo = (s.askCoUnit.runCo s.coUnit.ops).coDone s.cfg.divCo s.coUnit.cycles := by
  rw [State.tickCo, if_pos h, if_pos (State.coRunnable_iff.mpr hruns)]
  rfl

theorem State.tickVdp_notDue {s : State} (h : s.sched.nextVdp ≠ s.sched.masterTick) : s.tickVdp = .ok (s, false) := if_neg h

/-- The end of the VDP's unit. -/
def State.vdpDone (s : State) (div cycles : Nat) : State :=
  { s with sched := { s.sched with nextVdp := s.sched.nextVdp + div * max 1 cycles } }

theorem State.tickVdp_runs {s s1 : State} (h : s.sched.nextVdp = s.sched.masterTick)
    (hunit : s.askVdpUnit.runVdp s.vdpUnit.ops = .ok s1) :
    s.tickVdp = .ok (s1.vdpDone s.cfg.divVdp s.vdpUnit.cycles, s.vdpUnit.newFrame) := by
  rw [State.tickVdp, if_pos h, hunit]
  rfl

theorem State.tickAudio_notDue {s : State} (h : s.sched.nextAudio ≠ s.sched.masterTick) : s.tickAudio = s := if_neg h

theorem State.tickAudio_runs {s : State} (h : s.sched.nextAudio = s.sched.masterTick) :
    s.tickAudio = { s.askAudioUnit with sched :=
      { s.sched with nextAudio := s.sched.nextAudio + s.cfg.divAudio * max 1 s.audioUnit.cycles } } := if_pos h

/-! ## The tick -/

/-- The tick after the main CPU's part. -/
def State.afterMain (s : State) : Except Refusal State :=
  match s.tickCo.tickVdp with
  | .error r => .error r
  | .ok (s2, frameEdge) => .ok (s2.tickAudio.endTick frameEdge)

theorem State.tick_afterMain {s s1 : State} (h : s.tickMain = .ok s1) (hfatal : s1.fatal = none) : s.tick = s1.afterMain := by
  simp only [State.tick, h, hfatal, Option.isSome_none, Bool.false_eq_true, if_false]
  rfl

theorem State.tick_fatal {s s1 : State} (h : s.tickMain = .ok s1) (hfatal : s1.fatal ≠ none) : s.tick = .ok s1 := by
  simp only [State.tick, h, Option.isSome_iff_ne_none.mpr hfatal, if_true]

theorem State.afterMain_eq {s u : State} {edge : Bool} (h : s.tickCo.tickVdp = .ok (u, edge)) :
    s.afterMain = .ok (u.tickAudio.endTick edge) := by rw [State.afterMain, h]

/-! ## Quiet units -/

/-- The main CPU performs its unit in this tick. -/
abbrev State.mainRuns (s : State) : Prop := s.sched.nextMain = s.sched.masterTick ∧ s.mainCpuFrozen = false

/-- The co-CPU performs its unit in this tick. -/
abbrev State.coRuns (s : State) : Prop :=
  s.sched.nextCo = s.sched.masterTick ∧ s.coCpuResetAsserted = false ∧ s.coCpuBusRequested = false

/-- The main CPU's part with a unit that performs nothing. -/
def State.mainQuiet (s : State) (m : MainUnit) : State :=
  { s with
    penalty := ⟨if s.mainRuns then 0 else s.penalty.main, s.penalty.co⟩
    pendingMain := if s.mainRuns then ⟨s.pendingMain.v || s.vdpVLine, s.pendingMain.h || s.vdpHLine⟩ else s.pendingMain
    calls := s.calls ++ if s.mainRuns then [.mainStep] else []
    inputs := { s.inputs with mainUnits := if s.mainRuns then s.inputs.mainUnits.tail else s.inputs.mainUnits }
    draws := s.draws + if s.mainRuns then 1 else 0
    sched := { s.sched with
      nextMain :=
        if s.mainRuns then s.sched.nextMain + s.cfg.divMain * max 1 (m.cycles + s.penalty.main)
        else if s.sched.nextMain = s.sched.masterTick then s.sched.nextMain + s.cfg.divMain else s.sched.nextMain } }

theorem State.tickMain_quiet {s : State} {m : MainUnit} (hfatal : s.fatal = none) (hm : s.inputs.mainUnits.head? = some m)
    (hops : m.ops = []) : s.tickMain = .ok (s.mainQuiet m) := by
  have hunit : s.mainUnit = m := by rw [State.mainUnit, List.headD_eq_head?_getD, hm]; rfl
  by_cases hdue : s.sched.nextMain = s.sched.masterTick
  · by_cases hfrozen : s.mainCpuFrozen = true
    · rw [State.tickMain_frozen hdue hfrozen]
      simp [State.mainQuiet, State.mainRuns, hdue, hfrozen]
    · have hgoes : s.mainCpuFrozen = false := Bool.eq_false_of_not_eq_true hfrozen
      have hrun : s.askMainUnit.runMain s.mainUnit.ops = .ok s.askMainUnit := by rw [hunit, hops]; rfl
      rw [State.tickMain_runs hdue hgoes hrun, hunit]
      simp [State.mainQuiet, State.mainRuns, State.mainDone, hdue, hgoes, hfatal]
  · rw [State.tickMain_notDue hdue]
    simp [State.mainQuiet, State.mainRuns, hdue]

/-- The co-CPU's part with a unit that performs nothing. -/
def State.coQuiet (s : State) (c : CoUnit) : State :=
  { s with
    penalty := ⟨s.penalty.main, if s.coRuns then 0 else s.penalty.co⟩
    pendingCo := if s.coRuns then ⟨s.pendingCo.v || s.vdpVLine, s.pendingCo.h || s.vdpHLine⟩ else s.pendingCo
    calls := s.calls ++ if s.coRuns then [.coStep] else []
    inputs := { s.inputs with coUnits := if s.coRuns then s.inputs.coUnits.tail else s.inputs.coUnits }
    draws := s.draws + if s.coRuns then 1 else 0
    sched := { s.sched with
      nextCo :=
        if s.coRuns then s.sched.nextCo + s.cfg.divCo * max 1 (c.cycles + s.penalty.co)
        else if s.sched.nextCo = s.sched.masterTick then s.sched.nextCo + s.cfg.divCo else s.sched.nextCo } }

theorem State.tickCo_quiet {s : State} {c : CoUnit} (hc : s.inputs.coUnits.head? = some c) (hops : c.ops = []) :
    s.tickCo = s.coQuiet c := by
  have hunit : s.coUnit = c := by rw [State.coUnit, List.headD_eq_head?_getD, hc]; rfl
  by_cases hdue : s.sched.nextCo = s.sched.masterTick
  · by_cases hruns : s.coCpuResetAsserted = false ∧ s.coCpuBusRequested = false
    · rw [State.tickCo_runs hdue hruns, hunit, hops]
      simp [State.coQuiet, State.coRuns, State.coDone, State.runCo, hdue, hruns]
    · rw [State.tickCo_held hdue hruns]
      simp [State.coQuiet, State.coRuns, hdue, hruns]
  · rw [State.tickCo_notDue hdue]
    simp [State.coQuiet, State.coRuns, hdue]

/-- The VDP's part with a unit that performs nothing. -/
def State.vdpQuiet (s : State) (v : VdpUnit) : State :=
  { s with
    calls := s.calls ++ if s.sched.nextVdp = s.sched.masterTick then [.vdpSlot] else []
    inputs := { s.inputs with
      vdpUnits := if s.sched.nextVdp = s.sched.masterTick then s.inputs.vdpUnits.tail else s.inputs.vdpUnits }
    draws := s.draws + if s.sched.nextVdp = s.sched.masterTick then 1 else 0
    sched := { s.sched with
      nextVdp :=
        if s.sched.nextVdp = s.sched.masterTick then s.sched.nextVdp + s.cfg.divVdp * max 1 v.cycles else s.sched.nextVdp } }

theorem State.tickVdp_quiet {s : State} {v : VdpUnit} (hv : s.inputs.vdpUnits.head? = some v) (hops : v.ops = []) :
    s.tickVdp = .ok (s.vdpQuiet v, decide (s.sched.nextVdp = s.sched.masterTick ∧ v.newFrame = true)) := by
  have hunit : s.vdpUnit = v := by rw [State.vdpUnit, List.headD_eq_head?_getD, hv]; rfl
  by_cases hdue : s.sched.nextVdp = s.sched.masterTick
  · have hrun : s.askVdpUnit.runVdp s.vdpUnit.ops = .ok s.askVdpUnit := by rw [hunit, hops]; rfl
    rw [State.tickVdp_runs hdue hrun, hunit]
    simp [State.vdpQuiet, State.vdpDone, hdue]
  · rw [State.tickVdp_notDue hdue]
    simp [State.vdpQuiet, hdue]

/-- The audio generator's part: its unit performs nothing on the bus. -/
def State.audioQuiet (s : State) (u : AudioUnit) : State :=
  { s with
    calls := s.calls ++ if s.sched.nextAudio = s.sched.masterTick then [.soundTick u.micros] else []
    inputs := { s.inputs with
      audioUnits := if s.sched.nextAudio = s.sched.masterTick then s.inputs.audioUnits.tail else s.inputs.audioUnits }
    draws := s.draws + if s.sched.nextAudio = s.sched.masterTick then 1 else 0
    sched := { s.sched with
      nextAudio :=
        if s.sched.nextAudio = s.sched.masterTick then s.sched.nextAudio + s.cfg.divAudio * max 1 u.cycles
        else s.sched.nextAudio } }

theorem State.tickAudio_quiet {s : State} {u : AudioUnit} (hu : s.inputs.audioUnits.head? = some u) :
    s.tickAudio = s.audioQuiet u := by
  have hunit : s.audioUnit = u := by rw [State.audioUnit, List.headD_eq_head?_getD, hu]; rfl
  by_cases hdue : s.sched.nextAudio = s.sched.masterTick
  · rw [State.tickAudio_runs hdue, hunit]
    simp [State.audioQuiet, hdue, hunit]
  · rw [State.tickAudio_notDue hdue]
    simp [State.audioQuiet, hdue]

theorem State.tick_quiet {s : State} {m : MainUnit} {c : CoUnit} {v : VdpUnit} {u : AudioUnit} (hfatal : s.fatal = none)
    (hm : s.inputs.mainUnits.head? = some m) (hc : s.inputs.coUnits.head? = some c) (hv : s.inputs.vdpUnits.head? = some v)
    (hu : s.inputs.audioUnits.head? = some u) (hmOps : m.ops = []) (hcOps : c.ops = []) (hvOps : v.ops = []) :
    s.tick = .ok (((((s.mainQuiet m).coQuiet c).vdpQuiet v).audioQuiet u).endTick
      (decide (s.sched.nextVdp = s.sched.masterTick ∧ v.newFrame = true))) := by
  have hco : (s.mainQuiet m).tickCo = (s.mainQuiet m).coQuiet c := State.tickCo_quiet hc hcOps
  have hvdp : ((s.mainQuiet m).coQuiet c).tickVdp = .ok (((s.mainQuiet m).coQuiet c).vdpQuiet v,
      decide (s.sched.nextVdp = s.sched.masterTick ∧ v.newFrame = true)) := State.tickVdp_quiet hv hvOps
  have haudio : (((s.mainQuiet m).coQuiet c).vdpQuiet v).tickAudio
      = (((s.mainQuiet m).coQuiet c).vdpQuiet v).audioQuiet u := State.tickAudio_quiet hu
  rw [State.tick_afterMain (State.tickMain_quiet hfatal hm hmOps) hfatal, State.afterMain_eq ((congrArg State.tickVdp hco).trans hvdp), haudio]

/-- Settles O54: the four quiet parts one after the other, and the frame boundary where the VDP's unit, due, reports the edge. -/
theorem tickWithQuietUnits : Obligations.TickWithQuietUnits := by
  intro s m c v u hfatal hm hc hv hu hmOps hcOps hvOps mainDue coDue vdpDue audioDue mainRuns coRuns
  have htick : exec .schTick s = ofExcept s.tick := rfl
  have hquiet := State.tick_quiet hfatal hm hc hv hu hmOps hcOps hvOps
  refine ⟨_, rfl, fun hedge => ?_, fun hedge => ?_⟩
  · rw [htick, hquiet, decide_eq_false hedge]
    rfl
  · rw [htick, hquiet, decide_eq_true hedge]
    rfl

end Sys2Proof.Machine
end

section
/-! PROOFS. The units of work in the tick (R271 to R277, R289): a unit performs its operations as the rows do, and each device's
part leaves a state from which the rest of the same tick goes on. -/

namespace Sys2Proof.Machine

/-! ## The operations of a unit as rows -/

theorem exec_mainOpInstr (op : MainOp) (s : State) : exec (mainOpInstr op) s = ofExcept (s.mainOp op) := by cases op <;> rfl

theorem exec_slotRowOf {s : State} {k : DmaKind} (h : s.dma.mode = modeOf k ∨ s.dma.mode = .none) :
    exec (slotRowOf k) s = ofExcept s.dmaSlot := by
  obtain hactive | hidle := h
  · cases k with
    | fill => exact (State.slotRow_active hactive (by decide) _).trans (congrArg ofExcept (State.dmaSlot_fill hactive).symm)
    | copy => exact (State.slotRow_active hactive (by decide) _).trans (congrArg ofExcept (State.dmaSlot_copy hactive).symm)
    | m68kToVram => exact (State.slotRow_active hactive (by decide) _).trans (congrArg ofExcept (State.dmaSlot_m68k hactive).symm)
  · have hslot : s.dmaSlot = .ok s := by rw [State.dmaSlot, hidle]
    rw [hslot]
    cases k <;> exact State.slotRow_idle hidle _ _

theorem State.runVdp_cons {s s1 : State} {op : VdpOp} (h : s.vdpOp op = .ok s1) (ops : List VdpOp) :
    s.runVdp (op :: ops) = s1.runVdp ops := by rw [State.runVdp, h]

/-! ## The main CPU's unit -/

theorem State.runMain_fatal {s : State} (h : s.fatal ≠ none) (ops : List MainOp) : s.runMain ops = .ok s := by
  cases ops with
  | nil => rfl
  | cons op ops => exact if_pos (Option.isSome_iff_ne_none.mpr h)

theorem State.runMain_cons {s s1 : State} {op : MainOp} (hfatal : s.fatal = none) (h : s.mainOp op = .ok s1) (ops : List MainOp) :
    s.runMain (op :: ops) = s1.runMain ops := by
  simp only [State.runMain, hfatal, Option.isSome_none, Bool.false_eq_true, if_false, h]

theorem execAll_mainOps_cons {s t : State} {op : MainOp} {ops : List MainOp}
    (h : execAll ((op :: ops).map mainOpInstr) s = .next t) :
    ∃ u, s.mainOp op = .ok u ∧ execAll (ops.map mainOpInstr) u = .next t := by
  simp only [List.map_cons, execAll, exec_mainOpInstr] at h
  cases hop : s.mainOp op with
  | error r => simp [hop] at h
  | ok u => exact ⟨u, rfl, by simpa [hop] using h⟩

theorem State.Grows.mainOps {s t : State} {ops : List MainOp} (h : execAll (ops.map mainOpInstr) s = .next t) : s.Grows t := by
  induction ops generalizing s with
  | nil =>
    cases h
    exact .refl _
  | cons op ops ih =>
    obtain ⟨u, hop, hrest⟩ := execAll_mainOps_cons h
    exact (State.Grows.mainOp hop).trans (ih hrest)

/-- A fatal error is never cleared, so a state without one had none before: operations that reach it are the unit's first. -/
theorem State.runMain_append {s s1 : State} {ops : List MainOp} (h : execAll (ops.map mainOpInstr) s = .next s1)
    (hfatal : s1.fatal = none) (rest : List MainOp) : s.runMain (ops ++ rest) = s1.runMain rest := by
  induction ops generalizing s with
  | nil =>
    cases h
    rfl
  | cons op ops ih =>
    have hs : s.fatal = none := by_contra fun hne => (State.Grows.mainOps h).2.2 hne hfatal
    obtain ⟨u, hop, hrest⟩ := execAll_mainOps_cons h
    rw [List.cons_append, State.runMain_cons hs hop, ih hrest]

theorem State.runMain_of_execAll {s s1 : State} {ops : List MainOp} (h : execAll (ops.map mainOpInstr) s = .next s1)
    (hfatal : s1.fatal = none) : s.runMain ops = .ok s1 := by
  have hrun := State.runMain_append h hfatal []
  rwa [List.append_nil] at hrun

/-- The operation that raises the fatal error is the unit's last. -/
theorem State.runMain_stops {s s0 s1 : State} {done rest : List MainOp} {op : MainOp}
    (h : execAll (done.map mainOpInstr) s = .next s0) (hfatal : s0.fatal = none) (hop : exec (mainOpInstr op) s0 = .next s1)
    (hstop : s1.fatal ≠ none) : s.runMain (done ++ op :: rest) = .ok s1 := by
  have hstep : s0.mainOp op = .ok s1 := ofExcept_next.mp ((exec_mainOpInstr op s0).symm.trans hop)
  rw [State.runMain_append h hfatal, State.runMain_cons hfatal hstep, State.runMain_fatal hstop]

/-! ## What the other units keep -/

theorem State.runCo_fatal (s : State) (ops : List CoOp) : (s.runCo ops).fatal = s.fatal :=
  State.runCo_keeps (P := fun x => x.fatal = s.fatal) (fun _ op h => (by cases op <;> exact h)) ops rfl

theorem State.vdpOp_fatal {s t : State} {op : VdpOp} (e : s.vdpOp op = .ok t) : t.fatal = s.fatal := by
  cases op with
  | start o =>
    obtain ⟨-, rfl⟩ := State.startDma_ok.mp e
    rfl
  | slot => exact (congrArg State.fatal (State.dmaSlot_frame e) : t.offSlot.fatal = s.offSlot.fatal)
  | drain => exact (congrArg State.fatal (State.fifoDrain_frame e) : t.offReady.fatal = s.offReady.fatal)
  | setLines v h | freeze b | status | slots res period =>
    cases e
    rfl

theorem State.runVdp_fatal {s t : State} {ops : List VdpOp} (e : s.runVdp ops = .ok t) : t.fatal = s.fatal :=
  State.runVdp_keeps (P := fun x => x.fatal = s.fatal) (fun _ _ _ h e => (State.vdpOp_fatal e).trans h) rfl e

/-! ## Parts that are not due -/

theorem State.tick_mainNotDue {s : State} (hfatal : s.fatal = none) (h : s.sched.nextMain ≠ s.sched.masterTick) :
    s.tick = s.afterMain := State.tick_afterMain (State.tickMain_notDue h) hfatal

/-- After the main CPU's part, with the next one later, the rest of the tick is the tick of the state left. -/
theorem State.tick_resume {s s1 : State} (h : s.tickMain = .ok s1) (hfatal : s1.fatal = none)
    (hlater : s1.sched.nextMain ≠ s1.sched.masterTick) : s.tick = s1.tick := by
  rw [State.tick_afterMain h hfatal, State.tick_mainNotDue hfatal hlater]

/-- The co-CPU's part of a state with another due tick of the co-CPU is that state. -/
theorem State.afterMain_resume {s s1 : State} (h : s.tickCo = s1) (hlater : s1.sched.nextCo ≠ s1.sched.masterTick) :
    s.afterMain = s1.afterMain := by
  rw [State.afterMain, State.afterMain, h, State.tickCo_notDue hlater]

theorem State.afterMain_coNotDue {s u : State} {edge : Bool} (h : s.sched.nextCo ≠ s.sched.masterTick)
    (hvdp : s.tickVdp = .ok (u, edge)) : s.afterMain = .ok (u.tickAudio.endTick edge) :=
  State.afterMain_eq ((congrArg State.tickVdp (State.tickCo_notDue h)).trans hvdp)

/-- A due tick moved on by a device's work is past the master tick. -/
theorem dueTick_ne {tick due div : Nat} (hdue : due = tick) (hdiv : 1 ≤ div) (cycles : Nat) :
    due + div * max 1 cycles ≠ tick :=
  hdue ▸ (lt_dueTick cycles hdiv).ne'

theorem dueTick_idle_ne {tick due div : Nat} (hdue : due = tick) (hdiv : 1 ≤ div) : due + div ≠ tick := by omega

/-! ## The tick goes on from the state a part leaves -/

section
variable {s : State} (hfatal : s.fatal = none) (hok : s.cfg.ok = true)

include hok in
theorem State.tick_mainUnit (hdue : s.sched.nextMain = s.sched.masterTick) (hgoes : s.mainCpuFrozen = false) {s1 : State}
    (hunit : execAll (s.mainUnit.ops.map mainOpInstr) s.askMainUnit = .next s1) (hnone : s1.fatal = none) :
    s.tick = State.tick { s1 with
      penalty := ⟨0, s1.penalty.co⟩
      pendingMain := ⟨s1.pendingMain.v || s1.vdpVLine, s1.pendingMain.h || s1.vdpHLine⟩
      sched := { s1.sched with
        nextMain := s.sched.nextMain + s.cfg.divMain * max 1 (s.mainUnit.cycles + s1.penalty.main) } } := by
  have hrun := State.runMain_of_execAll hunit hnone
  have hsched : s1.sched = s.sched := congrArg Prod.fst (State.runMain_clock hrun)
  have hmain := State.tickMain_runs hdue hgoes hrun
  rw [hnone, Option.isSome_none, if_neg Bool.false_ne_true, State.mainDone, hsched] at hmain
  rw [hsched]
  exact State.tick_resume hmain hnone (dueTick_ne hdue (BusConfig.divisors_pos hok).1 _)

theorem State.tick_mainFatal (hdue : s.sched.nextMain = s.sched.masterTick) (hgoes : s.mainCpuFrozen = false) {s1 : State}
    (hunit : s.askMainUnit.runMain s.mainUnit.ops = .ok s1) (hstop : s1.fatal ≠ none) : s.tick = .ok s1 := by
  have hmain := State.tickMain_runs hdue hgoes hunit
  rw [if_pos (Option.isSome_iff_ne_none.mpr hstop)] at hmain
  exact State.tick_fatal hmain hstop

include hfatal hok in
theorem State.tick_mainFrozen (hdue : s.sched.nextMain = s.sched.masterTick) (hfrozen : s.mainCpuFrozen = true) :
    s.tick = State.tick { s with sched := { s.sched with nextMain := s.sched.nextMain + s.cfg.divMain } } :=
  State.tick_resume (State.tickMain_frozen hdue hfrozen) hfatal (dueTick_idle_ne hdue (BusConfig.divisors_pos hok).1)

variable (hmain : s.sched.nextMain ≠ s.sched.masterTick)

include hfatal hmain in
/-- After the co-CPU's part, with the next one later, the rest of the tick is the tick of the state left. -/
theorem State.tick_resumeCo {s1 : State} (h : s.tickCo = s1) (hnone : s1.fatal = none)
    (hmain1 : s1.sched.nextMain ≠ s1.sched.masterTick) (hlater : s1.sched.nextCo ≠ s1.sched.masterTick) : s.tick = s1.tick := by
  rw [State.tick_mainNotDue hfatal hmain, State.tick_mainNotDue hnone hmain1, State.afterMain_resume h hlater]

include hfatal hok hmain in
theorem State.tick_coUnit (hdue : s.sched.nextCo = s.sched.masterTick)
    (hruns : s.coCpuResetAsserted = false ∧ s.coCpuBusRequested = false) {s1 : State} (hs1 : s1 = s.askCoUnit.runCo s.coUnit.ops) :
    s.tick = State.tick { s1 with
      penalty := ⟨s1.penalty.main, 0⟩
      pendingCo := ⟨s1.pendingCo.v || s1.vdpVLine, s1.pendingCo.h || s1.vdpHLine⟩
      sched := { s1.sched with
        nextCo := s.sched.nextCo + s.cfg.divCo * max 1 (s.coUnit.cycles + s1.penalty.co) } } := by
  have hsched : s1.sched = s.sched := hs1 ▸ congrArg Prod.fst (State.runCo_clock s.askCoUnit s.coUnit.ops)
  have hnone : s1.fatal = none := hs1 ▸ (State.runCo_fatal s.askCoUnit s.coUnit.ops).trans hfatal
  have hco := State.tickCo_runs hdue hruns
  rw [← hs1, State.coDone, hsched] at hco
  rw [hsched]
  exact State.tick_resumeCo hfatal hmain hco hnone hmain (dueTick_ne hdue (BusConfig.divisors_pos hok).2.1 _)

include hfatal hok hmain in
theorem State.tick_coHeld (hdue : s.sched.nextCo = s.sched.masterTick)
    (hheld : s.coCpuResetAsserted = true ∨ s.coCpuBusRequested = true) :
    s.tick = State.tick { s with sched := { s.sched with nextCo := s.sched.nextCo + s.cfg.divCo } } := by
  have hnot : ¬ (s.coCpuResetAsserted = false ∧ s.coCpuBusRequested = false) := by
    rintro ⟨hreset, hbus⟩
    simp [hreset, hbus] at hheld
  exact State.tick_resumeCo hfatal hmain (State.tickCo_held hdue hnot) hfatal hmain
    (dueTick_idle_ne hdue (BusConfig.divisors_pos hok).2.1)

variable (hco : s.sched.nextCo ≠ s.sched.masterTick)

include hfatal hmain hco in
theorem State.tick_vdpNotDue (hvdp : s.sched.nextVdp ≠ s.sched.masterTick) : s.tick = .ok (s.tickAudio.endTick false) :=
  (State.tick_mainNotDue hfatal hmain).trans (State.afterMain_coNotDue hco (State.tickVdp_notDue hvdp))

include hfatal hok hmain hco in
/-- The state the VDP's part leaves ends its own tick without an edge; this tick ends with the edge the unit reports. -/
theorem State.tick_vdpUnit (hdue : s.sched.nextVdp = s.sched.masterTick) {s1 : State}
    (hunit : s.askVdpUnit.runVdp s.vdpUnit.ops = .ok s1) :
    ∃ u, State.tick { s1 with sched := { s1.sched with
        nextVdp := s.sched.nextVdp + s.cfg.divVdp * max 1 s.vdpUnit.cycles } } = .ok (State.endTick u false)
      ∧ s.tick = .ok (State.endTick u s.vdpUnit.newFrame) := by
  have hsched : s1.sched = s.sched := congrArg Prod.fst (State.runVdp_clock hunit)
  have hnone : s1.fatal = none := (State.runVdp_fatal hunit).trans hfatal
  have hvdp := State.tickVdp_runs hdue hunit
  rw [State.vdpDone, hsched] at hvdp
  rw [hsched]
  exact ⟨_, State.tick_vdpNotDue hnone hmain hco (dueTick_ne hdue (BusConfig.divisors_pos hok).2.2.1 _),
    (State.tick_mainNotDue hfatal hmain).trans (State.afterMain_coNotDue hco hvdp)⟩

variable (hvdp : s.sched.nextVdp ≠ s.sched.masterTick)

include hfatal hmain hco hvdp in
theorem State.tick_resumeAudio {s1 : State} (h : s.tickAudio = s1) (hnone : s1.fatal = none)
    (hmain1 : s1.sched.nextMain ≠ s1.sched.masterTick) (hco1 : s1.sched.nextCo ≠ s1.sched.masterTick)
    (hvdp1 : s1.sched.nextVdp ≠ s1.sched.masterTick) (hlater : s1.sched.nextAudio ≠ s1.sched.masterTick) : s.tick = s1.tick := by
  rw [State.tick_vdpNotDue hfatal hmain hco hvdp, h, State.tick_vdpNotDue hnone hmain1 hco1 hvdp1, State.tickAudio_notDue hlater]

include hfatal hok hmain hco hvdp in
theorem State.tick_audioUnit (hdue : s.sched.nextAudio = s.sched.masterTick) :
    s.tick = State.tick { s.askAudioUnit with sched := { s.sched with
      nextAudio := s.sched.nextAudio + s.cfg.divAudio * max 1 s.audioUnit.cycles } } :=
  State.tick_resumeAudio hfatal hmain hco hvdp (State.tickAudio_runs hdue) hfatal hmain hco hvdp
    (dueTick_ne hdue (BusConfig.divisors_pos hok).2.2.2 _)

include hfatal hmain hco hvdp in
theorem State.tick_noneDue (haudio : s.sched.nextAudio ≠ s.sched.masterTick) : s.tick = .ok (s.endTick false) := by
  rw [State.tick_vdpNotDue hfatal hmain hco hvdp, State.tickAudio_notDue haudio]

end

theorem exec_schTick_of_tick {s t : State} (h : s.tick = t.tick) : exec .schTick s = exec .schTick t := congrArg ofExcept h

/-! ## The statement's three parts -/

theorem vdpUnit_rows (s s1 : State) (op : VdpOp) (ops : List VdpOp) :
    s.runVdp [] = .ok s ∧ (s.vdpOp op = .ok s1 → s.runVdp (op :: ops) = s1.runVdp ops)
    ∧ (∀ o, exec (.dmaStart o) s = ofExcept (s.vdpOp (.start o)))
    ∧ (∀ k, s.dma.mode = modeOf k ∨ s.dma.mode = .none → exec (slotRowOf k) s = ofExcept (s.vdpOp .slot))
    ∧ exec .fifoDrain s = ofExcept (s.vdpOp .drain)
    ∧ (∀ v h, exec (.vdpSetlines v h) s = ofExcept (s.vdpOp (.setLines v h)))
    ∧ (∀ b, exec (.arbFreeze b) s = ofExcept (s.vdpOp (.freeze b)))
    ∧ exec .dmaStatus s = ofExcept (s.vdpOp .status)
    ∧ (∀ r p, exec (.dmaQslots r p) s = ofExcept (s.vdpOp (.slots r p))) :=
  ⟨rfl, fun h => State.runVdp_cons h ops, fun _ => rfl, fun _ h => exec_slotRowOf h, rfl, fun _ _ => rfl, fun _ => rfl, rfl,
    fun _ _ => rfl⟩

theorem coUnit_rows (s : State) (op : CoOp) (ops : List CoOp) :
    s.runCo [] = s ∧ s.runCo (op :: ops) = (s.coOp op).runCo ops
    ∧ (∀ w, exec (.cpuIack .co w) s = .next (s.coOp (.iack w)))
    ∧ (∀ i b, ∃ u, u = s.coOp (.store i b) ∧ u = { s with comem := u.comem }
      ∧ ∀ k, u.comemByte k = if k = comemIndex s.cfg i then b else s.comemByte k) :=
  ⟨rfl, rfl, fun _ => rfl, fun i b => ⟨_, rfl, rfl, fun k => s.comemByte_write (comemIndex s.cfg i) k b⟩⟩

/-- Settles O55: the devices in the order of the tick, each with those before it not due. -/
theorem tickRunsUnitsInOrder : Obligations.TickRunsUnitsInOrder := by
  refine ⟨vdpUnit_rows, coUnit_rows, fun s hfatal hok => ⟨fun hdue hgoes => ⟨fun s1 hunit hnone => ?_,
    fun done op rest s0 s1 hops hdone hnone hop hstop => ?_⟩, fun hdue hfrozen => ?_, fun hmain =>
    ⟨fun hdue hreset hbus => ?_, fun hdue hheld => ?_, fun hco => ⟨fun s1 t hdue hunit hrest => ?_,
      fun hvdp => ⟨fun hdue => ?_, fun haudio => ?_⟩⟩⟩⟩⟩
  · exact exec_schTick_of_tick (State.tick_mainUnit hok hdue hgoes hunit hnone)
  · have hunit : s.askMainUnit.runMain s.mainUnit.ops = .ok s1 := by
      rw [hops]
      exact State.runMain_stops hdone hnone hop hstop
    exact congrArg ofExcept (State.tick_mainFatal hdue hgoes hunit hstop)
  · exact exec_schTick_of_tick (State.tick_mainFrozen hfatal hok hdue hfrozen)
  · exact ⟨_, rfl, exec_schTick_of_tick (State.tick_coUnit hfatal hok hmain hdue ⟨hreset, hbus⟩ rfl)⟩
  · exact exec_schTick_of_tick (State.tick_coHeld hfatal hok hmain hdue hheld)
  · obtain ⟨u, hsame, htick⟩ := State.tick_vdpUnit hfatal hok hmain hco hdue hunit
    obtain rfl : u.endTick false = t := Except.ok.inj (hsame.symm.trans (ofExcept_next.mp hrest))
    have hend : ∀ edge, s.vdpUnit.newFrame = edge → exec .schTick s = .next (u.endTick edge) :=
      fun edge hedge => hedge ▸ congrArg ofExcept htick
    exact ⟨hend false, hend true⟩
  · exact exec_schTick_of_tick (State.tick_audioUnit hfatal hok hmain hco hvdp hdue)
  · exact congrArg ofExcept (State.tick_noneDue hfatal hmain hco hvdp haudio)

end Sys2Proof.Machine
end
